-- ==== Sys2Proof/Word.lean ====
section
/-! DEFINITION. The two word types of the block: the 21-bit symbol (00_scope.md R6, CPW = 21) and the packed
six-dot cell (20_memory.md R53). -/

namespace Sys2Proof

/-- One element of the input or output string: a 21-bit code point (00_scope.md R6, 20_memory.md R51). -/
abbrev Sym := BitVec 21

/-- A six-dot cell in packed form, string position 0 in bit 5 (20_memory.md R53, 30_encoding.md R73). -/
abbrev Cell := BitVec 6

end Sys2Proof
end

