-- ==== Sys2Proof/Config.lean ====
section
/-! DEFINITION. What one implementation of the block fixes (00_scope.md R6 to R9, 92_eei_decisions.md "Open
parameters, collected"), and the free values: constants without a body, of which nothing can be proved. -/

namespace Sys2Proof

/-- The four implementation parameters. They are constants of the step function, not state (10_state.md R20);
one block carries its own copy and no step writes it (DESIGN CHOICE log 2). -/
structure Config where
  /-- `IN_CAP`, the capacity of the input buffer in symbols, any number 1 or more (00_scope.md R7). -/
  inCap : Nat
  /-- `LETTER_LUT`, the cell of each letter (00_scope.md R8). -/
  letterLut : Vector Cell 26
  /-- The symbols above 0x7F for which `UNI_LETTER` holds (00_scope.md R9, open). -/
  uniLetterHigh : List Sym
  /-- The symbols above 0x7F for which `UNI_DIGIT` holds (00_scope.md R9, open). -/
  uniDigitHigh : List Sym
  deriving DecidableEq, Repr

/-- `OUT_CAP = 12 × IN_CAP`, fixed by the spec (00_scope.md R7). -/
def Config.outCap (cfg : Config) : Nat := 12 * cfg.inCap

/-- FREE VALUE. `IN_CAP` of the shipped block, less one, so that it is at least 1 (00_scope.md R7, DESIGN CHOICE log 2). -/
opaque Config.freeInCapPred : Nat

/-- FREE VALUE. The non-ASCII Unicode letters of the shipped block (00_scope.md R9, DESIGN CHOICE log 4). -/
opaque Config.freeUniLetterHigh : List Sym

/-- FREE VALUE. The non-ASCII Unicode digits of the shipped block (00_scope.md R9, DESIGN CHOICE log 4). -/
opaque Config.freeUniDigitHigh : List Sym

/-- FREE VALUE. What `IN[i]` holds while nothing has written it (93_implementation_defined.md U7, DESIGN CHOICE log 5). -/
opaque Config.freeIn : Nat → Sym

/-- FREE VALUE. The n-th unspecified value that a read of `OUT` returns (93_implementation_defined.md U6, DESIGN CHOICE log 6). -/
opaque Config.freeOut : Nat → Sym

end Sys2Proof
end

