-- ==== Sys2Proof/Machine/Tables.lean ====
section
/-! DEFINITION. The code points, the two forms of a cell, the constant look-up tables in both directions and the
character classes (30_encoding.md sections 1 to 6). -/

namespace Sys2Proof.Machine

/-! ### Code points (30_encoding.md R71) -/

/-- The capital letter O, "denotes a raised dot". -/
def symO : Sym := 0x4F
/-- The full stop, "denotes an unraised position". -/
def symDot : Sym := 0x2E
/-- The English space. -/
def symSpace : Sym := 0x20

/-! ### Cells (30_encoding.md R72 to R74) -/

/-- The symbol of one cell position: `O` for a raised dot, `.` for an unraised one (R73). -/
def dotSym (b : Bool) : Sym := if b then symO else symDot

/-- The cell position a symbol stands for, if it is `O` or `.` (R73, R83). -/
def symDot? (c : Sym) : Option Bool :=
  if c = symO then some true else if c = symDot then some false else none

/-- `CellStr(b)`: position `k` of the string is bit `5 - k` (R73). -/
def cellStr (b : Cell) : List Sym :=
  [dotSym (b.getLsbD 5), dotSym (b.getLsbD 4), dotSym (b.getLsbD 3),
   dotSym (b.getLsbD 2), dotSym (b.getLsbD 1), dotSym (b.getLsbD 0)]

/-- The packed value of six cell positions, the first in bit 5 (R73). -/
def packCell (b5 b4 b3 b2 b1 b0 : Bool) : Cell :=
  BitVec.ofNat 6 (32 * b5.toNat + 16 * b4.toNat + 8 * b3.toNat + 4 * b2.toNat + 2 * b1.toNat + b0.toNat)

/-- `CellBits(g)`: the packed value of a six-symbol string over `O` and `.`, and none for any other string
(R73, R83). -/
def cellBits (g : List Sym) : Option Cell :=
  match g.map symDot? with
  | [some b5, some b4, some b3, some b2, some b1, some b0] => some (packCell b5 b4 b3 b2 b1 b0)
  | _ => none

/-- The space cell `......` (R74). -/
def spaceCell : Cell := 0x00
/-- CAPITAL_FOLLOWS `.....O` (R74). -/
def capCell : Cell := 0x01
/-- NUMBER_FOLLOWS `.O.OOO` (R74). -/
def numCell : Cell := 0x17

/-! ### The tables (30_encoding.md R75 to R78) -/

/-- The default `LETTER_LUT`, `a` to `z` (R75; DESIGN CHOICE log 3). -/
def defaultLetterLut : Vector Cell 26 :=
  #v[0x20, 0x28, 0x30, 0x34, 0x24, 0x38, 0x3C, 0x2C, 0x18, 0x1C, 0x22, 0x2A, 0x32,
     0x36, 0x26, 0x3A, 0x3E, 0x2E, 0x1A, 0x1E, 0x23, 0x2B, 0x1D, 0x33, 0x37, 0x27]

/-- The cell of the letter of index `i` (R75). -/
def letterCell (cfg : Config) (i : Fin 26) : Cell := cfg.letterLut.get i

/-- The index of the letter whose cell the digit `d` shares, `(d + 9) mod 10` (R76). -/
def digitLetter (d : Fin 10) : Fin 26 := ⟨(d.val + 9) % 10, by omega⟩

/-- `DIGIT_LUT[d]` (R76). -/
def digitCell (cfg : Config) (d : Fin 10) : Cell := letterCell cfg (digitLetter d)

/-- An entry of the reverse letter table (R77). -/
inductive LetterEntry where
  | letter (i : Fin 26)
  | space
  | cap
  | num
  | none
  deriving DecidableEq, Repr

/-- `REV_LET[b]` (R77). -/
def revLet (cfg : Config) (b : Cell) : LetterEntry :=
  if b = spaceCell then .space
  else if b = capCell then .cap
  else if b = numCell then .num
  else match (List.finRange 26).find? (fun i => letterCell cfg i == b) with
    | some i => .letter i
    | none => .none

/-- `REV_DIG[b]` (R78). -/
def revDig (cfg : Config) (b : Cell) : Option (Fin 10) :=
  (List.finRange 10).find? (fun d => digitCell cfg d == b)

/-! ### Character classes (00_scope.md R6, R9; 30_encoding.md R80, R81) -/

/-- A Unicode scalar value (00_scope.md R6). -/
def isScalar (c : Sym) : Bool :=
  decide (c.toNat ≤ 0x10FFFF) && !(decide (0xD800 ≤ c.toNat) && decide (c.toNat ≤ 0xDFFF))

def isUpper (c : Sym) : Bool := decide (0x41 ≤ c.toNat) && decide (c.toNat ≤ 0x5A)
def isLower (c : Sym) : Bool := decide (0x61 ≤ c.toNat) && decide (c.toNat ≤ 0x7A)
def isDigit (c : Sym) : Bool := decide (0x30 ≤ c.toNat) && decide (c.toNat ≤ 0x39)

/-- `UNI_LETTER`: fixed on 0x00 to 0x7F, open above, false on values that are no scalar value (00_scope.md R9). -/
def uniLetter (cfg : Config) (c : Sym) : Bool :=
  if c.toNat < 0x80 then isUpper c || isLower c else isScalar c && cfg.uniLetterHigh.contains c

/-- `UNI_DIGIT`: as `uniLetter` (00_scope.md R9). -/
def uniDigit (cfg : Config) (c : Sym) : Bool :=
  if c.toNat < 0x80 then isDigit c else isScalar c && cfg.uniDigitHigh.contains c

/-- A letter, a digit or the space: the English class of the classifier (40_classifier.md R100). -/
def isEnglish (cfg : Config) (c : Sym) : Bool := uniLetter cfg c || uniDigit cfg c || c == symSpace

/-- `O` or `.`: the Braille class of the classifier (40_classifier.md R100). -/
def isBraille (c : Sym) : Bool := c == symO || c == symDot

/-- The encoder's classes (30_encoding.md R80). -/
inductive EncClass where
  | upper | lower | digit | space | other
  deriving DecidableEq, Repr

def encClass (c : Sym) : EncClass :=
  if isUpper c then .upper
  else if isLower c then .lower
  else if isDigit c then .digit
  else if c = symSpace then .space
  else .other

/-- The classifier's classes K_O, K_DOT, K_ENG and K_OTHER (30_encoding.md R81). -/
inductive ClsClass where
  | o | dot | eng | other
  deriving DecidableEq, Repr

def clsClass (cfg : Config) (c : Sym) : ClsClass :=
  if c = symO then .o
  else if c = symDot then .dot
  else if isEnglish cfg c then .eng
  else .other

/-! ### Operand arithmetic (30_encoding.md R82) -/

/-- The letter index `c - base` of a letter, `base` 0x41 or 0x61. -/
def letterIndex (base : Nat) (c : Sym) : Fin 26 := Fin.ofNat 26 (c.toNat - base)
/-- The digit value `c - 0x30` of a digit. -/
def digitValue (c : Sym) : Fin 10 := Fin.ofNat 10 (c.toNat - 0x30)
/-- The uppercase letter of index `i`, `0x41 + i`. -/
def upperSym (i : Fin 26) : Sym := BitVec.ofNat 21 (0x41 + i.val)
/-- The lowercase letter of index `i`, `0x61 + i`. -/
def lowerSym (i : Fin 26) : Sym := BitVec.ofNat 21 (0x61 + i.val)
/-- The digit of value `d`, `0x30 + d`. -/
def digitSym (d : Fin 10) : Sym := BitVec.ofNat 21 (0x30 + d.val)

/-- The parameters of the shipped block: the open ones free, `LETTER_LUT` at the spec's default
(92_eei_decisions.md, open parameters; DESIGN CHOICE log 2, DESIGN CHOICE log 3, DESIGN CHOICE log 4). -/
def implementation : Config where
  inCap := Config.freeInCapPred + 1
  letterLut := defaultLetterLut
  uniLetterHigh := Config.freeUniLetterHigh
  uniDigitHigh := Config.freeUniDigitHigh

end Sys2Proof.Machine
end

