-- ==== Sys2Proof/Syntax.lean ====
section
/-! DEFINITION. The instructions: one constructor per mnemonic of spec/opcode_table.json, whose rows are the values
of its operands. An operand is what the encoding determines and nothing else (30_encoding.md R82); bits without an effect are kept
(DESIGN CHOICE log 18). -/

namespace Sys2Proof

/-- The instructions of the block (30_encoding.md R70, R90). -/
inductive Instr where
  /-- `CMD.TRANSLATE`, command code 0b00 (43_dispatch.md R162). -/
  | cmdTranslate
  /-- `CMD.ENCODE`, command code 0b01 (43_dispatch.md R164). -/
  | cmdEncode
  /-- `CMD.DECODE`, command code 0b10 (43_dispatch.md R165). -/
  | cmdDecode
  /-- `CMD.CLASSIFY`, command code 0b11 (43_dispatch.md R163). -/
  | cmdClassify
  /-- `CTRL.NONE`, a write of 0b00 to CTRL (10_state.md R31). -/
  | ctrlNone
  /-- `CTRL.START`, a write of 0b01 to CTRL (43_dispatch.md R161). -/
  | ctrlStart
  /-- `CTRL.RESET`, a write of 0b10 or 0b11 to CTRL; `startBit` is bit 0, which has no effect (43_dispatch.md R166). -/
  | ctrlReset (startBit : Bool)
  /-- `CLS.O`, the symbol 0x4F (40_classifier.md R101). -/
  | clsO
  /-- `CLS.DOT`, the symbol 0x2E (40_classifier.md R102). -/
  | clsDot
  /-- `CLS.ENG`, a symbol `c` of class K_ENG (40_classifier.md R103). -/
  | clsEng (c : Sym)
  /-- `CLS.OTHER`, a symbol `c` of class K_OTHER (40_classifier.md R104). -/
  | clsOther (c : Sym)
  /-- `CLS.END`, the end of the input in phase CLASSIFY (40_classifier.md R105). -/
  | clsEnd
  /-- `ENC.UPPER`, the uppercase letter of index `i` (41_encoder.md R116). -/
  | encUpper (i : Fin 26)
  /-- `ENC.LOWER`, the lowercase letter of index `i` (41_encoder.md R117). -/
  | encLower (i : Fin 26)
  /-- `ENC.DIGIT`, the digit of value `d` (41_encoder.md R118). -/
  | encDigit (d : Fin 10)
  /-- `ENC.SPACE`, the space (41_encoder.md R119). -/
  | encSpace
  /-- `ENC.OTHER`, a symbol `c` of encoder class OTHER (41_encoder.md R120). -/
  | encOther (c : Sym)
  /-- `ENC.END`, the end of the input in phase ENCODE (41_encoder.md R121). -/
  | encEnd
  /-- `DEC.PRE`, the preflight (42_decoder.md R136). -/
  | decPre
  /-- `DEC.CAP`, the cell CAPITAL_FOLLOWS; `m` is the mode bit, either value (42_decoder.md R138). -/
  | decCap (m : Bool)
  /-- `DEC.NUM`, the cell NUMBER_FOLLOWS; `m` is the mode bit, either value (42_decoder.md R139). -/
  | decNum (m : Bool)
  /-- `DEC.SPACE`, the space cell; `m` is the mode bit, either value (42_decoder.md R140). -/
  | decSpace (m : Bool)
  /-- `DEC.DIGIT`, the cell of digit `d` in number mode (42_decoder.md R141). -/
  | decDigit (d : Fin 10)
  /-- `DEC.LETTER`, the cell of the letter of index `j` in letter mode (42_decoder.md R142). -/
  | decLetter (j : Fin 26)
  /-- `DEC.UNKNOWN`, a six-symbol group `g` without an entry in the reverse table of mode `m` (42_decoder.md R143). -/
  | decUnknown (m : Bool) (g : List Sym)
  /-- `DEC.END`, the end of the input in phase DECODE (42_decoder.md R144). -/
  | decEnd
  deriving DecidableEq, Repr

end Sys2Proof
end

