-- ==== Sys2Proof/WellFormed.lean ====
section
/-! DEFINITION. When the parameters of a block are legal (00_scope.md R7 to R9, 30_encoding.md R79) and when an
instruction is one that the encoding can express. -/

namespace Sys2Proof

open Sys2Proof.Machine

/-- The requirements on `LETTER_LUT`: 26 distinct cells, none of them a named cell (30_encoding.md R79), and the
five entries the source fixes: `a`, `b`, `c`, `d`, `j` (00_scope.md R8). -/
def Config.lutValid (cfg : Config) : Bool :=
  ((List.finRange 26).all fun i =>
    ((List.finRange 26).all fun j => i == j || !(letterCell cfg i == letterCell cfg j))
    && !(letterCell cfg i == spaceCell) && !(letterCell cfg i == capCell) && !(letterCell cfg i == numCell))
  && letterCell cfg 0 == 0x20 && letterCell cfg 1 == 0x28 && letterCell cfg 2 == 0x30
  && letterCell cfg 3 == 0x34 && letterCell cfg 9 == 0x1C

/-- Legal parameters: a positive capacity and a legal letter table. The two open predicates need no check: what
00_scope.md R9 fixes of them is fixed by `uniLetter` and `uniDigit`. -/
def Config.valid (cfg : Config) : Bool := decide (1 ≤ cfg.inCap) && cfg.lutValid

/-- The decoder has an entry for the packed cell `b` in mode `m`: a named cell, or an entry of the active reverse
table (42_decoder.md R137). -/
def cellKnown (cfg : Config) (m : Bool) (b : Cell) : Bool :=
  b == spaceCell || b == capCell || b == numCell ||
  (if m then (revDig cfg b).isSome else (List.finRange 26).any fun i => letterCell cfg i == b)

/-- An instruction that some word encodes, under the parameters `cfg`. -/
def Instr.wf (cfg : Config) : Instr → Bool
  | .clsEng c => clsClass cfg c == .eng
  | .clsOther c => clsClass cfg c == .other
  | .encOther c => encClass c == .other
  | .decUnknown m g => g.length == 6 && (match cellBits g with
      | some b => !cellKnown cfg m b
      | none => true)
  | .cmdTranslate | .cmdEncode | .cmdDecode | .cmdClassify | .ctrlNone | .ctrlStart | .ctrlReset _ => true
  | .clsO | .clsDot | .clsEnd => true
  | .encUpper _ | .encLower _ | .encDigit _ | .encSpace | .encEnd => true
  | .decPre | .decCap _ | .decNum _ | .decSpace _ | .decDigit _ | .decLetter _ | .decEnd => true

end Sys2Proof
end

