-- ==== Sys2Proof/Decode.lean ====
section
/-! DEFINITION. The decoder, total on any list of symbols and rejecting by name, and after it the encoder, both
written from the formats of 30_encoding.md R70 to R90. Which format is read is not in the word: the phase, the
register and the mode bit DEC_NUM say it (R84, 43_dispatch.md R168). -/

namespace Sys2Proof

open Sys2Proof.Machine

/-- The formats of 30_encoding.md R70 and R90, each with its end-of-input form. -/
inductive Format where
  /-- CMD: the command code in register CMD (R87). -/
  | cmd
  /-- CTRL: the value written to register CTRL (10_state.md R31). -/
  | ctrl
  /-- CHAR as the classifier reads it; no symbol is the end of the input. -/
  | cls
  /-- CHAR as the encoder reads it; no symbol is the end of the input. -/
  | enc
  /-- The preflight, which reads no symbol. -/
  | pre
  /-- CELL in the mode `m` = DEC_NUM; no symbol is the end of the input (R84). -/
  | dec (m : Bool)
  deriving DecidableEq, Repr

/-- Why a list of symbols is no instruction of a format. -/
inductive DecodeError where
  /-- The format has another number of symbols (R70: 1 for CHAR, 6 for CELL). -/
  | wrongLength
  /-- A command code or CTRL value is two bits wide (R86, R87). -/
  | widerThanTwoBits
  deriving DecidableEq, Repr

/-- The CMD format (R87). -/
def decodeCmd (v : BitVec 2) : Instr :=
  match v.toNat with
  | 0 => .cmdTranslate
  | 1 => .cmdEncode
  | 2 => .cmdDecode
  | _ => .cmdClassify

/-- The CTRL format: bit 1 is RESET and wins, bit 0 is START (10_state.md R31). -/
def decodeCtrl (v : BitVec 2) : Instr :=
  if v.getLsbD 1 then .ctrlReset (v.getLsbD 0)
  else if v.getLsbD 0 then .ctrlStart
  else .ctrlNone

/-- A CHAR instruction of the classifier (R81). -/
def decodeCls (cfg : Config) (c : Sym) : Instr :=
  match clsClass cfg c with
  | .o => .clsO
  | .dot => .clsDot
  | .eng => .clsEng c
  | .other => .clsOther c

/-- A CHAR instruction of the encoder (R80, R82). -/
def decodeEnc (c : Sym) : Instr :=
  match encClass c with
  | .upper => .encUpper (letterIndex 0x41 c)
  | .lower => .encLower (letterIndex 0x61 c)
  | .digit => .encDigit (digitValue c)
  | .space => .encSpace
  | .other => .encOther c

/-- A CELL instruction in the mode `m`: the named cells first, then the active reverse table
(42_decoder.md R137, 30_encoding.md R83, R84). -/
def decodeCell (cfg : Config) (m : Bool) (g : List Sym) : Instr :=
  match cellBits g with
  | none => .decUnknown m g
  | some b =>
    if b = capCell then .decCap m
    else if b = numCell then .decNum m
    else if b = spaceCell then .decSpace m
    else if m then
      match revDig cfg b with
      | some d => .decDigit d
      | none => .decUnknown m g
    else
      match revLet cfg b with
      | .letter j => .decLetter j
      | _ => .decUnknown m g

/-- The decoder: the instruction that the symbols `ws` are in the format `f`. -/
def decode (cfg : Config) (f : Format) (ws : List Sym) : Except DecodeError Instr :=
  match f with
  | .cmd =>
    match ws with
    | [w] => if w.toNat < 4 then .ok (decodeCmd (BitVec.ofNat 2 w.toNat)) else .error .widerThanTwoBits
    | _ => .error .wrongLength
  | .ctrl =>
    match ws with
    | [w] => if w.toNat < 4 then .ok (decodeCtrl (BitVec.ofNat 2 w.toNat)) else .error .widerThanTwoBits
    | _ => .error .wrongLength
  | .cls =>
    match ws with
    | [] => .ok .clsEnd
    | [c] => .ok (decodeCls cfg c)
    | _ => .error .wrongLength
  | .enc =>
    match ws with
    | [] => .ok .encEnd
    | [c] => .ok (decodeEnc c)
    | _ => .error .wrongLength
  | .pre =>
    match ws with
    | [] => .ok .decPre
    | _ => .error .wrongLength
  | .dec m =>
    if ws.length = 0 then .ok .decEnd
    else if ws.length = 6 then .ok (decodeCell cfg m ws)
    else .error .wrongLength

/-- The encoder: the format and the symbols of an instruction, read from the rows of spec/opcode_table.json and
from 30_encoding.md R71, R74 to R76, R87. -/
def encode (cfg : Config) : Instr → Format × List Sym
  | .cmdTranslate => (.cmd, [0b00])
  | .cmdEncode => (.cmd, [0b01])
  | .cmdDecode => (.cmd, [0b10])
  | .cmdClassify => (.cmd, [0b11])
  | .ctrlNone => (.ctrl, [0b00])
  | .ctrlStart => (.ctrl, [0b01])
  | .ctrlReset startBit => (.ctrl, [if startBit then 0b11 else 0b10])
  | .clsO => (.cls, [symO])
  | .clsDot => (.cls, [symDot])
  | .clsEng c => (.cls, [c])
  | .clsOther c => (.cls, [c])
  | .clsEnd => (.cls, [])
  | .encUpper i => (.enc, [upperSym i])
  | .encLower i => (.enc, [lowerSym i])
  | .encDigit d => (.enc, [digitSym d])
  | .encSpace => (.enc, [symSpace])
  | .encOther c => (.enc, [c])
  | .encEnd => (.enc, [])
  | .decPre => (.pre, [])
  | .decCap m => (.dec m, cellStr capCell)
  | .decNum m => (.dec m, cellStr numCell)
  | .decSpace m => (.dec m, cellStr spaceCell)
  | .decDigit d => (.dec true, cellStr (digitCell cfg d))
  | .decLetter j => (.dec false, cellStr (letterCell cfg j))
  | .decUnknown m g => (.dec m, g)
  | .decEnd => (.dec false, [])

/-- The format in which a table word of `nbits` bits is read, with its symbols; none where no format has such a
word. The width alone does not determine the format (the ENC rows have the same 21 bits as the CLS rows), so the
choice is the model's (DESIGN CHOICE log 9): 0 bits is the end of input of the classifier, 2 bits a CTRL value, 7 or 8 bits a
cell with its mode bit, 21 or 24 bits a symbol of the classifier, 32 bits a symbol of the encoder. -/
def tableFormat (nbits w : Nat) : Option (Format × List Sym) :=
  if nbits = 0 then some (.cls, [])
  else if nbits = 2 then if w < 4 then some (.ctrl, [BitVec.ofNat 21 w]) else none
  else if nbits = 7 ∨ nbits = 8 then
    if w < 128 then some (.dec (Nat.testBit w 6), cellStr (BitVec.ofNat 6 w)) else none
  else if nbits = 21 ∨ nbits = 24 then
    if w < 2097152 then some (.cls, [BitVec.ofNat 21 w]) else none
  else if nbits = 32 then
    if w < 2097152 then some (.enc, [BitVec.ofNat 21 w]) else none
  else none

/-- What the decoder of the shipped block reads from a table word (DESIGN CHOICE log 9). -/
def decodeTableWord (nbits w : Nat) : Option Instr :=
  match tableFormat nbits w with
  | none => none
  | some (f, ws) =>
    match decode implementation f ws with
    | .ok i => some i
    | .error _ => none

end Sys2Proof
end

