-- ==== Sys2Proof/Machine/Memory.lean ====
section
/-! DEFINITION. A symbol buffer: a list of (index, symbol) pairs in one canonical form, indices strictly rising. An
unlisted index holds no value the model knows (93_implementation_defined.md U7, DESIGN CHOICE log 5), so no entry can equal what
an unlisted index reads as. The unit is the symbol (20_memory.md R51, DEDUCED log 8). -/

namespace Sys2Proof.Machine

/-- A symbol buffer (20_memory.md R50). -/
abbrev Memory := List (Nat × Sym)

/-- The symbol at index `a`, none where nothing has been written. -/
def Memory.read (m : Memory) (a : Nat) : Option Sym :=
  match m with
  | [] => none
  | (b, v) :: rest => if a = b then some v else Memory.read rest a

/-- Store `v` at index `a`, keeping the indices strictly rising. -/
def Memory.write (m : Memory) (a : Nat) (v : Sym) : Memory :=
  match m with
  | [] => [(a, v)]
  | (b, w) :: rest =>
    if a < b then (a, v) :: (b, w) :: rest
    else if a = b then (a, v) :: rest
    else (b, w) :: Memory.write rest a v

/-- `MemWrite`: the symbols `vs` at `a`, `a + 1`, ... in string order (20_memory.md R52, R56). -/
def Memory.writeList (m : Memory) (a : Nat) (vs : List Sym) : Memory :=
  match vs with
  | [] => m
  | v :: rest => Memory.writeList (m.write a v) (a + 1) rest

/-- The `n` locations from `a` on, in index order. -/
def Memory.readList (m : Memory) (a n : Nat) : List (Option Sym) :=
  match n with
  | 0 => []
  | k + 1 => m.read a :: Memory.readList m (a + 1) k

/-- Every index of `m` is at least `lo`, and they rise strictly. -/
def Memory.rising (m : Memory) (lo : Nat) : Bool :=
  match m with
  | [] => true
  | (b, _) :: rest => decide (lo ≤ b) && Memory.rising rest (b + 1)

/-- The canonical form. -/
def Memory.wf (m : Memory) : Bool := Memory.rising m 0

end Sys2Proof.Machine
end

