-- ==== Sys2Proof/Machine/State.lean ====
section
/-! DEFINITION. The state of one block instance (10_state.md R21), the turns of its agents, the reasons a step can
stop, and the state after reset (10_state.md R41). -/

namespace Sys2Proof.Machine

/-- `PHASE` (10_state.md R28). Values 6 and 7 are unreachable and have no constructor (93_implementation_defined.md U8;
DEDUCED log 20). -/
inductive Phase where
  | idle | classify | encode | preflight | decode | done
  deriving DecidableEq, Repr

/-- The operation that register `CMD` selects (10_state.md R29). -/
inductive Cmd where
  | translate | encode | decode | classify
  deriving DecidableEq, Repr

/-- The classification tag, "Three disjoint variants" (10_state.md R33). -/
inductive Tag where
  | braille | english | other
  deriving DecidableEq, Repr

/-- The seven error kinds (60_exceptions.md R175). -/
inductive ErrKind where
  /-- The collaborator's; the block never raises it (60_exceptions.md R182; DEDUCED log 20). -/
  | missingArguments
  | unclassifiableInput
  | unsupportedCharacter
  | truncatedCell
  | unknownCell
  | invalidSequence
  | danglingCapital
  deriving DecidableEq, Repr

/-- A host operation on the map of 20_memory.md R58 (43_dispatch.md R170). -/
inductive HostOp where
  /-- Read register number `n`. -/
  | readReg (n : Nat)
  /-- Write `v` to register number `n`. -/
  | writeReg (n v : Nat)
  /-- Read index `i` of window number `w`. -/
  | readWindow (w i : Nat)
  /-- Write `v` to index `i` of window number `w`. -/
  | writeWindow (w i v : Nat)
  deriving DecidableEq, Repr

/-- Who acts next (10_state.md R20; DESIGN CHOICE log 1). -/
inductive Turn where
  /-- The sequencer takes one step. -/
  | run
  /-- The host does one operation. -/
  | host (op : HostOp)
  /-- The host polls `STATUS` until it reads PHASE = DONE; the sequencer goes on meanwhile
  (70_reset_and_hazards.md R203; DESIGN CHOICE log 7). -/
  | poll
  /-- The hardware reset input (70_reset_and_hazards.md R200; DESIGN CHOICE log 7). -/
  | resetInput
  deriving DecidableEq, Repr

/-- Everything the spec gives one block instance (10_state.md R21), with the model's own fields last. The
registers of open width are natural numbers (DEDUCED log 17). -/
structure State where
  /-- `PHASE` (R28). -/
  phase : Phase
  /-- `CMD`, register 0 (R29). -/
  cmd : Cmd
  /-- `IN_LEN`, register 1 (R30). -/
  inLen : Nat
  /-- `TAG`; none is NONE (R33). -/
  tag : Option Tag
  /-- `ERR`; none is code 0 (R34). -/
  err : Option ErrKind
  /-- `ERR_POS`, register 4 (R35). -/
  errPos : Nat
  /-- `OUT_LEN`, register 5 (R36). -/
  outLen : Nat
  /-- `IDX`, the program counter (R22). -/
  idx : Nat
  /-- `OLEN`, the staged output length (R23). -/
  olen : Nat
  /-- `ENC_NUM` (R24). -/
  encNum : Bool
  /-- `DEC_CAP` (R25). -/
  decCap : Bool
  /-- `DEC_NUM` (R26). -/
  decNum : Bool
  /-- `CLS_B` (R27). -/
  clsB : Bool
  /-- `CLS_E` (R27). -/
  clsE : Bool
  /-- `CLS_SEEN` (R27). -/
  clsSeen : Bool
  /-- `IN`, the input buffer (R38). -/
  inBuf : Memory
  /-- `OBUF`, the staged output buffer (R39). -/
  obuf : Memory
  /-- The model's own: the parameters and tables of this instance, which no step writes (R20, R40; DESIGN CHOICE log 2). -/
  cfg : Config
  /-- The model's own: the turns to come; when it is empty every turn is the sequencer's (DESIGN CHOICE log 1). -/
  pending : List Turn
  /-- The model's own: the value that the last host read returned (DESIGN CHOICE log 12). -/
  readData : Nat
  /-- The model's own: how many unspecified values reads of `OUT` have returned (DESIGN CHOICE log 6). -/
  freeReads : Nat
  deriving DecidableEq, Repr

/-- Why the machine is stuck. The spec calls none of these an error of the block: each names a case for which no
rule exists, and no state that meets the invariant of Safety.lean reaches one (DESIGN CHOICE log 14, DEDUCED log 15). -/
inductive Fault where
  /-- Raised by the fetch in CLASSIFY, ENCODE or DECODE when `IDX > IN_LEN`: 43_dispatch.md R168 has no row. Safe: the
  machine stops where the spec says nothing. -/
  | idxPastInLen
  /-- Raised by the fetch in DECODE when fewer than six symbols are left: `MemRead` is defined only for
  `i + n <= IN_LEN` (00_scope.md R12, 20_memory.md R56). Safe: the machine stops where the spec says nothing. -/
  | memReadPastInLen
  /-- Raised by CMD.ENCODE and CMD.DECODE in phase CLASSIFY: "no other value of `CMD` occurs here"
  (40_classifier.md R105). Safe: the machine stops where the spec says nothing. -/
  | noRuleForCommand
  deriving DecidableEq, Repr

/-- Why a step has no meaning. -/
inductive Refusal where
  /-- Raised by an arm of `exec` whose instruction has no meaning yet. Safe: nothing is claimed of it. No arm
  raises it. -/
  | notModelled (mnemonic : String)
  deriving DecidableEq, Repr

/-- The state after hardware reset (10_state.md R41). `IN` and `OBUF` are unspecified: nothing is listed (DESIGN CHOICE log 5). The
model's own fields are at the values of DESIGN CHOICE log 1, DESIGN CHOICE log 6 and DESIGN CHOICE log 12. -/
def State.reset : State where
  phase := .idle
  cmd := .translate
  inLen := 0
  tag := none
  err := none
  errPos := 0
  outLen := 0
  idx := 0
  olen := 0
  encNum := false
  decCap := false
  decNum := false
  clsB := true
  clsE := true
  clsSeen := false
  inBuf := []
  obuf := []
  cfg := implementation
  pending := []
  readData := 0
  freeReads := 0

end Sys2Proof.Machine
end

