-- ==== Sys2Proof/Machine/Flags.lean ====
section
/-! DEFINITION. The numeric codes of the status fields, the two read-only views `STATUS` and `FLAGS`, and the verdict
that the classifier's flags give (10_state.md R27 to R37). -/

namespace Sys2Proof.Machine

/-- The code of `PHASE` (10_state.md R28). -/
def Phase.code : Phase → BitVec 3
  | .idle => 0
  | .classify => 1
  | .encode => 2
  | .preflight => 3
  | .decode => 4
  | .done => 5

/-- The code of `CMD` (30_encoding.md R87). -/
def Cmd.code : Cmd → BitVec 2
  | .translate => 0
  | .encode => 1
  | .decode => 2
  | .classify => 3

/-- The command of a 2-bit code; all four are legal (10_state.md R29). -/
def Cmd.ofCode (v : BitVec 2) : Cmd :=
  match v.toNat with
  | 0 => .translate
  | 1 => .encode
  | 2 => .decode
  | _ => .classify

/-- The code of `TAG`, 0 for NONE (10_state.md R33). -/
def tagCode : Option Tag → BitVec 2
  | none => 0
  | some .braille => 1
  | some .english => 2
  | some .other => 3

/-- The code of an error kind (60_exceptions.md R175). -/
def ErrKind.code : ErrKind → BitVec 3
  | .missingArguments => 1
  | .unclassifiableInput => 2
  | .unsupportedCharacter => 3
  | .truncatedCell => 4
  | .unknownCell => 5
  | .invalidSequence => 6
  | .danglingCapital => 7

/-- The code of `ERR`, 0 for no error (10_state.md R34). -/
def errCode : Option ErrKind → BitVec 3
  | none => 0
  | some k => k.code

/-- `STATUS`: PHASE in bits 2:0, TAG in bits 4:3, ERR in bits 7:5 (10_state.md R32). -/
def State.statusView (s : State) : BitVec 8 := errCode s.err ++ tagCode s.tag ++ s.phase.code

/-- `FLAGS`: ENC_NUM, DEC_CAP, DEC_NUM, CLS_B, CLS_E, CLS_SEEN in bits 0 to 5 (10_state.md R37). -/
def State.flagsView (s : State) : BitVec 6 :=
  packCell s.clsSeen s.clsE s.clsB s.decNum s.decCap s.encNum

/-- The block is busy exactly in phases 1 to 4 (10_state.md R28). -/
def Phase.busy : Phase → Bool
  | .classify | .encode | .preflight | .decode => true
  | .idle | .done => false

/-- The verdict that `CLS.END` writes to `TAG` (40_classifier.md R105). -/
def State.verdict (s : State) : Tag :=
  if s.clsSeen = false then .other
  else if s.clsB = true then .braille
  else if s.clsE = true then .english
  else .other

end Sys2Proof.Machine
end

