-- ==== Sys2Proof/Machine/Operands.lean ====
section
/-! DEFINITION. Reading the input buffer: `MemRead` at the running index (20_memory.md R56) and the symbols of the
instruction at `IDX` (10_state.md R22). The arithmetic of the implicit operands (30_encoding.md R82) is in
Tables.lean. -/

namespace Sys2Proof.Machine

/-- `IN[i]`: the stored symbol, or the free value of a location that nothing has written
(93_implementation_defined.md U7, DESIGN CHOICE log 5). -/
def State.inAt (s : State) (i : Nat) : Sym := (s.inBuf.read i).getD (Config.freeIn i)

/-- `MemRead(IN + i, n)`, the string `IN[i] IN[i+1] ... IN[i+n-1]` (20_memory.md R56). -/
def State.memRead (s : State) (i n : Nat) : List Sym :=
  match n with
  | 0 => []
  | k + 1 => s.inAt i :: s.memRead (i + 1) k

/-- The input string `IN[0..IN_LEN-1]` (10_state.md R30). -/
def State.input (s : State) : List Sym := s.memRead 0 s.inLen

/-- The symbols from `IDX` on, at most `n` of them and none past `IN_LEN`: the instruction at `IDX` in a format of `n`
symbols, and no symbol at the end of the input (10_state.md R22, 43_dispatch.md R168). -/
def State.window (s : State) (n : Nat) : List Sym := s.memRead s.idx (min n (s.inLen - s.idx))

end Sys2Proof.Machine
end

