-- ==== Sys2Proof/Machine/Ops.lean ====
section
/-! DEFINITION. The named operations that the step rules share: the index advance, `Emit`, `Finish()`, `raise`, the
re-initialisation of START and the effect of RESET. -/

namespace Sys2Proof.Machine

/-- `IDX <- IDX + n` (00_scope.md R12). -/
def State.advance (s : State) (n : Nat) : State := { s with idx := s.idx + n }

/-- `Emit(v)`: append to the staged output (00_scope.md R12, 20_memory.md R56; DEDUCED log 16). -/
def State.emit (s : State) (v : List Sym) : State :=
  { s with obuf := s.obuf.writeList s.olen v, olen := s.olen + v.length }

/-- TAKING AN ERROR. `raise K(pos)`: ERR, ERR_POS, OUT_LEN and PHASE are written and nothing else
(60_exceptions.md R183; DEDUCED log 22 for the TAG that CLS.END has written before). There is no return from it: a new START or a RESET goes on (R186). -/
def State.raise (s : State) (k : ErrKind) (pos : Nat) : State :=
  { s with err := some k, errPos := pos, outLen := 0, phase := .done }

/-- `Finish()`: commit the staged output and stop with success (43_dispatch.md R167). -/
def State.finish (s : State) : State := { s with outLen := s.olen, phase := .done }

/-- What START re-initialises before it selects the phase (43_dispatch.md R161). -/
def State.startInit (s : State) : State :=
  { s with
    tag := none, err := none, errPos := 0, outLen := 0, idx := 0, olen := 0,
    encNum := false, decCap := false, decNum := false, clsB := true, clsE := true, clsSeen := false }

/-- RESET: every register and flag at its reset value; `IN` and `OBUF` keep their contents
(10_state.md R41, 43_dispatch.md R166; DEDUCED log 21 for the reset input). -/
def State.resetRegs (s : State) : State :=
  { s with
    phase := .idle, cmd := .translate, inLen := 0,
    tag := none, err := none, errPos := 0, outLen := 0, idx := 0, olen := 0,
    encNum := false, decCap := false, decNum := false, clsB := true, clsE := true, clsSeen := false }

/-- Start reading the input again, in the phase `p` (43_dispatch.md R162). -/
def State.handOver (s : State) (p : Phase) : State := { s with idx := 0, phase := p }

end Sys2Proof.Machine
end

