-- ==== Sys2Proof/Machine/Commands.lean ====
section
/-! DEFINITION. Family CMD (43_dispatch.md R162 to R165). The sequencer reads the command code in two places: at
START, when PHASE is IDLE or DONE, where it selects the first phase (R161), and in the second half of CLS.END, when
PHASE is CLASSIFY. In the other phases nothing reads it and it has no effect (30_encoding.md R87; DESIGN CHOICE log 14). -/

namespace Sys2Proof.Machine

/-- `CMD.TRANSLATE`: at START, PHASE <- CLASSIFY; at CLS.END, the three-way branch on TAG (43_dispatch.md R161, R162).
The TAG that CLS.END has just written stays also where the branch raises (DEDUCED log 22). -/
def execCmdTranslate (s : State) : Host.Outcome State Fault Refusal :=
  match s.phase with
  | .idle | .done => .next { s with phase := .classify }
  | .classify =>
    match s.tag with
    | some .braille => .next (s.handOver .preflight)
    | some .english => .next (s.handOver .encode)
    | some .other => .next (s.raise .unclassifiableInput s.inLen)
    | none => .next s
  | .encode | .preflight | .decode => .next s

/-- `CMD.ENCODE`: at START, PHASE <- ENCODE (43_dispatch.md R161, R164). -/
def execCmdEncode (s : State) : Host.Outcome State Fault Refusal :=
  match s.phase with
  | .idle | .done => .next { s with phase := .encode }
  | .classify => .fault .noRuleForCommand
  | .encode | .preflight | .decode => .next s

/-- `CMD.DECODE`: at START, PHASE <- PREFLIGHT (43_dispatch.md R161, R165). -/
def execCmdDecode (s : State) : Host.Outcome State Fault Refusal :=
  match s.phase with
  | .idle | .done => .next { s with phase := .preflight }
  | .classify => .fault .noRuleForCommand
  | .encode | .preflight | .decode => .next s

/-- `CMD.CLASSIFY`: at START, PHASE <- CLASSIFY; at CLS.END, `Finish()` (43_dispatch.md R161, R163). -/
def execCmdClassify (s : State) : Host.Outcome State Fault Refusal :=
  match s.phase with
  | .idle | .done => .next { s with phase := .classify }
  | .classify => .next s.finish
  | .encode | .preflight | .decode => .next s

/-- The command instruction whose code register `CMD` holds. -/
def runCommand (s : State) : Host.Outcome State Fault Refusal :=
  match s.cmd with
  | .translate => execCmdTranslate s
  | .encode => execCmdEncode s
  | .decode => execCmdDecode s
  | .classify => execCmdClassify s

end Sys2Proof.Machine
end

