-- ==== Sys2Proof/Machine/Classifier.lean ====
section
/-! DEFINITION. Family CLS: one symbol of the classifier per step (40_classifier.md R101 to R105). -/

namespace Sys2Proof.Machine

/-- `CLS.O` (40_classifier.md R101). -/
def execClsO (s : State) : Host.Outcome State Fault Refusal :=
  .next (State.advance { s with clsSeen := true } 1)

/-- `CLS.DOT` (40_classifier.md R102). -/
def execClsDot (s : State) : Host.Outcome State Fault Refusal :=
  .next (State.advance { s with clsSeen := true, clsE := false } 1)

/-- `CLS.ENG` (40_classifier.md R103). -/
def execClsEng (s : State) : Host.Outcome State Fault Refusal :=
  .next (State.advance { s with clsSeen := true, clsB := false } 1)

/-- `CLS.OTHER` (40_classifier.md R104). -/
def execClsOther (s : State) : Host.Outcome State Fault Refusal :=
  .next (State.advance { s with clsSeen := true, clsB := false, clsE := false } 1)

/-- `CLS.END`: TAG <- the verdict of the flags, then in the same step the command (40_classifier.md R105). Where that
raises UnclassifiableInput the write of TAG stands (43_dispatch.md R162 against 60_exceptions.md R183; DEDUCED log 22). -/
def execClsEnd (s : State) : Host.Outcome State Fault Refusal :=
  runCommand { s with tag := some s.verdict }

end Sys2Proof.Machine
end

