-- ==== Sys2Proof/Machine/Control.lean ====
section
/-! DEFINITION. Family CTRL: what a host write of the register CTRL does (10_state.md R31, 43_dispatch.md R161, R166). -/

namespace Sys2Proof.Machine

/-- `CTRL.NONE`: "Writing both as 0 does nothing" (10_state.md R31). -/
def execCtrlNone (s : State) : Host.Outcome State Fault Refusal := .next s

/-- `CTRL.START`: ignored while busy; else everything a command depends on is re-initialised and the command code
selects the phase (43_dispatch.md R161, 20_memory.md R63). -/
def execCtrlStart (s : State) : Host.Outcome State Fault Refusal :=
  if s.phase.busy then .next s else runCommand s.startInit

/-- `CTRL.RESET`: in every phase; bit 0 of the written value has no effect (43_dispatch.md R166, 10_state.md R31). -/
def execCtrlReset (s : State) : Host.Outcome State Fault Refusal := .next s.resetRegs

end Sys2Proof.Machine
end

