-- ==== Sys2Proof/Machine/Decoder.lean ====
section
/-! DEFINITION. Family DEC: the preflight, one cell of the decoder per step, and the end (42_decoder.md R136 to R144). -/

namespace Sys2Proof.Machine

/-- `DEC.PRE`: raise TruncatedCell when IN_LEN is no multiple of 6, else PHASE <- DECODE (42_decoder.md R136). -/
def execDecPre (s : State) : Host.Outcome State Fault Refusal :=
  if s.inLen % 6 ≠ 0 then .next (s.raise .truncatedCell (6 * (s.inLen / 6)))
  else .next { s with phase := .decode }

/-- `DEC.CAP` (42_decoder.md R138). -/
def execDecCap (s : State) : Host.Outcome State Fault Refusal :=
  if s.decCap = true then .next (s.raise .invalidSequence s.idx)
  else .next (State.advance { s with decCap := true } 6)

/-- `DEC.NUM` (42_decoder.md R139). -/
def execDecNum (s : State) : Host.Outcome State Fault Refusal :=
  if s.decCap = true then .next (s.raise .invalidSequence s.idx)
  else .next (State.advance { s with decNum := true } 6)

/-- `DEC.SPACE` (42_decoder.md R140). -/
def execDecSpace (s : State) : Host.Outcome State Fault Refusal :=
  if s.decCap = true then .next (s.raise .invalidSequence s.idx)
  else .next (State.advance { s.emit [symSpace] with decNum := false } 6)

/-- `DEC.DIGIT` (42_decoder.md R141). -/
def execDecDigit (d : Fin 10) (s : State) : Host.Outcome State Fault Refusal :=
  if s.decCap = true then .next (s.raise .invalidSequence s.idx)
  else .next ((s.emit [digitSym d]).advance 6)

/-- `DEC.LETTER` (42_decoder.md R142). -/
def execDecLetter (j : Fin 26) (s : State) : Host.Outcome State Fault Refusal :=
  .next (State.advance { s.emit [if s.decCap then upperSym j else lowerSym j] with decCap := false } 6)

/-- `DEC.UNKNOWN`: raise UnknownCell(IDX), whatever DEC_CAP is (42_decoder.md R143). -/
def execDecUnknown (s : State) : Host.Outcome State Fault Refusal :=
  .next (s.raise .unknownCell s.idx)

/-- `DEC.END`: raise DanglingCapital(IN_LEN) when a capital is pending, else `Finish()` (42_decoder.md R144). -/
def execDecEnd (s : State) : Host.Outcome State Fault Refusal :=
  if s.decCap = true then .next (s.raise .danglingCapital s.inLen) else .next s.finish

end Sys2Proof.Machine
end

