-- ==== Sys2Proof/Machine/Encoder.lean ====
section
/-! DEFINITION. Family ENC: one character of the encoder per step (41_encoder.md R116 to R121). -/

namespace Sys2Proof.Machine

/-- `ENC.UPPER`: CAPITAL_FOLLOWS, then the letter's cell (41_encoder.md R116). -/
def execEncUpper (i : Fin 26) (s : State) : Host.Outcome State Fault Refusal :=
  .next ((State.emit { s with encNum := false } (cellStr capCell ++ cellStr (letterCell s.cfg i))).advance 1)

/-- `ENC.LOWER`: the letter's cell (41_encoder.md R117). -/
def execEncLower (i : Fin 26) (s : State) : Host.Outcome State Fault Refusal :=
  .next ((State.emit { s with encNum := false } (cellStr (letterCell s.cfg i))).advance 1)

/-- `ENC.DIGIT`: NUMBER_FOLLOWS before the first digit of a run, then the digit's cell (41_encoder.md R118). -/
def execEncDigit (d : Fin 10) (s : State) : Host.Outcome State Fault Refusal :=
  let s1 := if s.encNum = false then { s.emit (cellStr numCell) with encNum := true } else s
  .next ((s1.emit (cellStr (digitCell s.cfg d))).advance 1)

/-- `ENC.SPACE`: the space cell (41_encoder.md R119). -/
def execEncSpace (s : State) : Host.Outcome State Fault Refusal :=
  .next ((State.emit { s with encNum := false } (cellStr spaceCell)).advance 1)

/-- `ENC.OTHER`: raise UnsupportedCharacter(IDX) (41_encoder.md R120). -/
def execEncOther (s : State) : Host.Outcome State Fault Refusal :=
  .next (s.raise .unsupportedCharacter s.idx)

/-- `ENC.END`: `Finish()` (41_encoder.md R121). -/
def execEncEnd (s : State) : Host.Outcome State Fault Refusal := .next s.finish

end Sys2Proof.Machine
end

