-- ==== Sys2Proof/Machine/Dispatch.lean ====
section
/-! DEFINITION. The meaning of every instruction, one arm per constructor. No meaning tests PHASE to see whether the
block would execute it there: the fetch does (43_dispatch.md R168; DESIGN CHOICE log 19). -/

namespace Sys2Proof.Machine

def exec (i : Instr) (s : State) : Host.Outcome State Fault Refusal :=
  match i with
  | .cmdTranslate => Sys2Proof.Machine.execCmdTranslate s
  | .cmdEncode => Sys2Proof.Machine.execCmdEncode s
  | .cmdDecode => Sys2Proof.Machine.execCmdDecode s
  | .cmdClassify => Sys2Proof.Machine.execCmdClassify s
  | .ctrlNone => Sys2Proof.Machine.execCtrlNone s
  | .ctrlStart => Sys2Proof.Machine.execCtrlStart s
  | .ctrlReset _ => Sys2Proof.Machine.execCtrlReset s
  | .clsO => Sys2Proof.Machine.execClsO s
  | .clsDot => Sys2Proof.Machine.execClsDot s
  | .clsEng _ => Sys2Proof.Machine.execClsEng s
  | .clsOther _ => Sys2Proof.Machine.execClsOther s
  | .clsEnd => Sys2Proof.Machine.execClsEnd s
  | .encUpper n => Sys2Proof.Machine.execEncUpper n s
  | .encLower n => Sys2Proof.Machine.execEncLower n s
  | .encDigit d => Sys2Proof.Machine.execEncDigit d s
  | .encSpace => Sys2Proof.Machine.execEncSpace s
  | .encOther _ => Sys2Proof.Machine.execEncOther s
  | .encEnd => Sys2Proof.Machine.execEncEnd s
  | .decPre => Sys2Proof.Machine.execDecPre s
  | .decCap _ => Sys2Proof.Machine.execDecCap s
  | .decNum _ => Sys2Proof.Machine.execDecNum s
  | .decSpace _ => Sys2Proof.Machine.execDecSpace s
  | .decDigit d => Sys2Proof.Machine.execDecDigit d s
  | .decLetter j => Sys2Proof.Machine.execDecLetter j s
  | .decUnknown _ _ => Sys2Proof.Machine.execDecUnknown s
  | .decEnd => Sys2Proof.Machine.execDecEnd s

end Sys2Proof.Machine
end

