-- ==== Sys2Proof/Machine/Fetch.lean ====
section
/-! DEFINITION. Which rule the sequencer executes (43_dispatch.md R168): the instruction at `IDX`, in the format that
PHASE and DEC_NUM select, and one step of the sequencer. -/

namespace Sys2Proof.Machine

/-- What the sequencer finds to execute. -/
inductive Fetched where
  /-- PHASE is IDLE or DONE: no step (43_dispatch.md R168). -/
  | noStep
  /-- The instruction to execute. -/
  | instr (i : Instr)
  /-- No row of 43_dispatch.md R168 applies (DEDUCED log 15). -/
  | stuck (f : Fault)
  deriving DecidableEq, Repr

/-- The instruction at `IDX` in the format `f` of `n` symbols. -/
def State.fetchAt (s : State) (f : Format) (n : Nat) : Fetched :=
  if s.idx ≤ s.inLen then
    match decode s.cfg f (s.window n) with
    | .ok i => .instr i
    | .error _ => .stuck .memReadPastInLen
  else .stuck .idxPastInLen

/-- The table of 43_dispatch.md R168. -/
def State.fetch (s : State) : Fetched :=
  match s.phase with
  | .idle | .done => .noStep
  | .classify => s.fetchAt .cls 1
  | .encode => s.fetchAt .enc 1
  | .preflight => .instr .decPre
  | .decode => s.fetchAt (.dec s.decNum) 6

/-- One turn of the sequencer. In IDLE and DONE "all state is kept" (60_exceptions.md R194; DEDUCED log 13). -/
def State.sequence (s : State) : Host.Outcome State Fault Refusal :=
  match s.fetch with
  | .noStep => .next s
  | .instr i => exec i s
  | .stuck f => .fault f

end Sys2Proof.Machine
end

