-- ==== Sys2Proof/Machine/HostPort.lean ====
section
/-! DEFINITION. The host's side of the map of 20_memory.md R58: register and window reads and writes
(43_dispatch.md R170), and the busy rule (20_memory.md R63). A write of CTRL is an instruction. -/

namespace Sys2Proof.Machine

/-- What a read of register number `n` returns: 0 for CTRL, for the reserved numbers 7 to 15 and for a number that does
not exist (20_memory.md R58). -/
def State.regValue (s : State) (n : Nat) : Nat :=
  match n with
  | 0 => s.cmd.code.toNat
  | 1 => s.inLen
  | 3 => s.statusView.toNat
  | 4 => s.errPos
  | 5 => s.outLen
  | 6 => s.flagsView.toNat
  | _ => 0

/-- A host read returns `v`. -/
def State.returns (s : State) (v : Nat) : State := { s with readData := v }

/-- A read of `OUT[k]`: the staged symbol below OUT_LEN, an unspecified value from OUT_LEN on, 0 from OUT_CAP on
(10_state.md R39, 20_memory.md R58, 93_implementation_defined.md U6; DESIGN CHOICE log 6). -/
def State.readOut (s : State) (k : Nat) : State :=
  if k < s.cfg.outCap then
    match (if k < s.outLen then s.obuf.read k else none) with
    | some v => s.returns v.toNat
    | none => { s.returns (Config.freeOut s.freeReads).toNat with freeReads := s.freeReads + 1 }
  else s.returns 0

/-- A read of index `i` of window number `w` (20_memory.md R58; DEDUCED log 11). -/
def State.readWindow (s : State) (w i : Nat) : State :=
  if w = 16 then s.returns (if i < s.cfg.inCap then (s.inAt i).toNat else 0)
  else if w = 17 then s.readOut i
  else s.returns 0

/-- A write of register number `n` other than CTRL: CMD and IN_LEN when the block is not busy, and IN_LEN only up to
IN_CAP; every other write is ignored (10_state.md R29, R30, 20_memory.md R58, R63; DESIGN CHOICE log 10). -/
def State.writeReg (s : State) (n v : Nat) : State :=
  if s.phase.busy then s
  else if n = 0 then { s with cmd := Cmd.ofCode (BitVec.ofNat 2 v) }
  else if n = 1 then if v ≤ s.cfg.inCap then { s with inLen := v } else s
  else s

/-- A write of index `i` of window number `w`: `IN[i]` when the block is not busy and `i` is below IN_CAP; every other
write is ignored (10_state.md R38, 20_memory.md R58, R63; DESIGN CHOICE log 10). -/
def State.writeWindow (s : State) (w i v : Nat) : State :=
  if s.phase.busy then s
  else if w = 16 ∧ i < s.cfg.inCap then { s with inBuf := s.inBuf.write i (BitVec.ofNat 21 v) }
  else s

/-- One host operation (43_dispatch.md R170). A write of register 2, CTRL, executes the CTRL instruction of its two
bits (10_state.md R31). -/
def hostOperation (op : HostOp) (s : State) : Host.Outcome State Fault Refusal :=
  match op with
  | .readReg n => .next (s.returns (s.regValue n))
  | .writeReg n v => if n = 2 then exec (decodeCtrl (BitVec.ofNat 2 v)) s else .next (s.writeReg n v)
  | .readWindow w i => .next (s.readWindow w i)
  | .writeWindow w i v => .next (s.writeWindow w i v)

end Sys2Proof.Machine
end

