-- ==== Sys2Proof/Machine/Turns.lean ====
section
/-! DEFINITION. One step of the block: the agent whose turn it is acts once (10_state.md R20, 20_memory.md R60; DESIGN CHOICE log 1). -/

namespace Sys2Proof.Machine

/-- One turn: the next one of `pending`, or the sequencer's when there is none. -/
def takeTurn (s : State) : Host.Outcome State Fault Refusal :=
  match s.pending with
  | [] => s.sequence
  | .run :: rest => State.sequence { s with pending := rest }
  | .host op :: rest => hostOperation op { s with pending := rest }
  | .poll :: rest =>
    if s.phase = .done then .next (State.returns { s with pending := rest } s.statusView.toNat) else s.sequence
  | .resetInput :: rest => .next (State.resetRegs { s with pending := rest })

/-- `s` with the symbols `ws` in `IN` from `IDX` on as the rest of the input, no turn pending, and PHASE (and for a
cell DEC_NUM) such that the sequencer reads them in the format `f`; for a CTRL value, the host's write of it is the
next turn (DESIGN CHOICE log 9). -/
def State.placeWords (s : State) (f : Format) (ws : List Sym) : State :=
  let placed : State := { s with inBuf := s.inBuf.writeList s.idx ws, inLen := s.idx + ws.length, pending := [] }
  match f with
  | .cls => { placed with phase := .classify }
  | .enc => { placed with phase := .encode }
  | .pre => { placed with phase := .preflight }
  | .dec m => { placed with phase := .decode, decNum := m }
  | .cmd => { s with pending := [] }
  | .ctrl => { s with pending := ws.map fun w => .host (.writeReg 2 w.toNat) }

end Sys2Proof.Machine
end

