-- ==== Sys2Proof/Machine/Functions.lean ====
section
/-! DEFINITION. The four functions of the source on whole strings: classify (40_classifier.md R100), encode
(41_encoder.md R115), decode (42_decoder.md R135) and translate (43_dispatch.md R160). They are what the steps of the
machine compute; no step calls them. -/

namespace Sys2Proof.Machine

/-- The result of a function: a string, or an error kind with a position (00_scope.md R13). -/
inductive Result where
  | ok (out : List Sym)
  | err (k : ErrKind) (pos : Nat)
  deriving DecidableEq, Repr

/-- `classify(s)` (40_classifier.md R100). -/
def classifyFn (cfg : Config) (s : List Sym) : Tag :=
  if s.length = 0 then .other
  else if s.all isBraille then .braille
  else if s.all (isEnglish cfg) then .english
  else .other

/-- The loop of `encode(s)` from index `i` on, with `num` and `out` so far (41_encoder.md R115). -/
def encodeLoop (cfg : Config) (num : Bool) (i : Nat) (out : List Sym) : List Sym → Result
  | [] => .ok out
  | c :: rest =>
    match encClass c with
    | .upper =>
      encodeLoop cfg false (i + 1) (out ++ cellStr capCell ++ cellStr (letterCell cfg (letterIndex 0x41 c))) rest
    | .lower => encodeLoop cfg false (i + 1) (out ++ cellStr (letterCell cfg (letterIndex 0x61 c))) rest
    | .digit =>
      encodeLoop cfg true (i + 1)
        ((if num then out else out ++ cellStr numCell) ++ cellStr (digitCell cfg (digitValue c))) rest
    | .space => encodeLoop cfg false (i + 1) (out ++ cellStr spaceCell) rest
    | .other => .err .unsupportedCharacter i

/-- `encode(s)` (41_encoder.md R115). -/
def encodeFn (cfg : Config) (s : List Sym) : Result := encodeLoop cfg false 0 [] s

/-- The loop of `decode(s)` from index `i` on, with `cap`, `num` and `out` so far; at the end, or where no whole cell is
left, `cap` decides (42_decoder.md R135). -/
def decodeLoop (cfg : Config) (cap num : Bool) (i : Nat) (out : List Sym) : List Sym → Result
  | c0 :: c1 :: c2 :: c3 :: c4 :: c5 :: rest =>
    match cellBits [c0, c1, c2, c3, c4, c5] with
    | none => .err .unknownCell i
    | some b =>
      if b = capCell then
        if cap then .err .invalidSequence i else decodeLoop cfg true num (i + 6) out rest
      else if b = numCell then
        if cap then .err .invalidSequence i else decodeLoop cfg cap true (i + 6) out rest
      else if b = spaceCell then
        if cap then .err .invalidSequence i else decodeLoop cfg cap false (i + 6) (out ++ [symSpace]) rest
      else if num then
        match revDig cfg b with
        | none => .err .unknownCell i
        | some d =>
          if cap then .err .invalidSequence i else decodeLoop cfg cap num (i + 6) (out ++ [digitSym d]) rest
      else
        match revLet cfg b with
        | .letter j =>
          decodeLoop cfg false num (i + 6) (out ++ [if cap then upperSym j else lowerSym j]) rest
        | _ => .err .unknownCell i
  | _ => if cap then .err .danglingCapital i else .ok out

/-- `decode(s)` (42_decoder.md R135). -/
def decodeFn (cfg : Config) (s : List Sym) : Result :=
  if s.length % 6 ≠ 0 then .err .truncatedCell (6 * (s.length / 6)) else decodeLoop cfg false false 0 [] s

/-- `translate(s)` (43_dispatch.md R160). -/
def translateFn (cfg : Config) (s : List Sym) : Result :=
  match classifyFn cfg s with
  | .braille => decodeFn cfg s
  | .english => encodeFn cfg s
  | .other => .err .unclassifiableInput s.length

end Sys2Proof.Machine
end

