-- ==== Sys2Proof/Safety.lean ====
section
/-! DEFINITION. What the statements speak of: the invariant of the block, what its flags record of the input, what a
host sees of a finished command, and runs of several steps. -/

namespace Sys2Proof.Machine

/-- Every listed index of `m` is below `n`. -/
def Memory.below (m : Memory) (n : Nat) : Bool := m.all fun e => decide (e.1 < n)

/-- The invariant of the block: the ranges of 10_state.md R22 to R36, the canonical form and bounds of the two buffers
(20_memory.md R50), the capacity bound (R65), the alignment of the decoder (R54), and which command, tag, error and
output length go with which phase (43_dispatch.md R168). -/
structure State.Inv (s : State) : Prop where
  /-- The parameters are legal (00_scope.md R7, R8). -/
  cfgValid : s.cfg.valid = true
  inWf : s.inBuf.wf = true
  inBelow : s.inBuf.below s.cfg.inCap = true
  obufWf : s.obuf.wf = true
  obufBelow : s.obuf.below s.cfg.outCap = true
  inLenLe : s.inLen ≤ s.cfg.inCap
  idxLe : s.idx ≤ s.cfg.inCap
  busyIdxLe : s.phase.busy = true → s.idx ≤ s.inLen
  errPosLe : s.errPos ≤ s.cfg.inCap
  olenLe : s.olen ≤ s.cfg.outCap
  /-- Nothing is visible but the whole output of a command that ended with success (10_state.md R36, R39). -/
  visible : s.outLen = 0 ∨ (s.phase = .done ∧ s.err = none ∧ s.outLen = s.olen)
  /-- An error is recorded only in phase DONE (60_exceptions.md R183). -/
  errDone : s.err ≠ none → s.phase = .done
  /-- The block never raises MissingArguments (60_exceptions.md R182). -/
  errRaised : s.err ≠ some .missingArguments
  classify : s.phase = .classify → (s.cmd = .translate ∨ s.cmd = .classify) ∧ s.tag = none ∧ s.olen = 0
  encode : s.phase = .encode →
    ((s.cmd = .encode ∧ s.tag = none) ∨ (s.cmd = .translate ∧ s.tag = some .english)) ∧
    s.olen ≤ 12 * s.idx ∧ s.olen % 6 = 0
  preflight : s.phase = .preflight →
    ((s.cmd = .decode ∧ s.tag = none) ∨ (s.cmd = .translate ∧ s.tag = some .braille)) ∧ s.idx = 0 ∧ s.olen = 0
  decode : s.phase = .decode →
    ((s.cmd = .decode ∧ s.tag = none) ∨ (s.cmd = .translate ∧ s.tag = some .braille)) ∧
    s.idx % 6 = 0 ∧ s.inLen % 6 = 0 ∧ 6 * s.olen ≤ s.idx

/-- Cell number `k` of the input, `IN[6k..6k+5]` (20_memory.md R52). -/
def State.inputCell (s : State) (k : Nat) : List Sym := s.memRead (6 * k) 6

/-- What the flags record of the input read so far (10_state.md R24 to R27), in the phases that use them, and
their START values in the phases before. -/
structure State.FlagsTrack (s : State) : Prop where
  classify : s.phase = .classify →
    s.clsSeen = decide (0 < s.idx) ∧ s.clsB = (s.memRead 0 s.idx).all isBraille ∧
    s.clsE = (s.memRead 0 s.idx).all (isEnglish s.cfg) ∧
    s.encNum = false ∧ s.decCap = false ∧ s.decNum = false
  encode : s.phase = .encode → s.encNum = (decide (0 < s.idx) && isDigit (s.inAt (s.idx - 1)))
  preflight : s.phase = .preflight → s.idx = 0 ∧ s.decCap = false ∧ s.decNum = false
  decode : s.phase = .decode →
    s.idx % 6 = 0 ∧
    s.decCap = (decide (6 ≤ s.idx) && (s.memRead (s.idx - 6) 6 == cellStr capCell)) ∧
    -- among the cells read, one is NUMBER_FOLLOWS and no later one is the space cell (10_state.md R26)
    (s.decNum = true ↔ ∃ k, k < s.idx / 6 ∧ s.inputCell k = cellStr numCell ∧
      ∀ j, j < s.idx / 6 → k < j → s.inputCell j ≠ cellStr spaceCell)

/-- From `s` to `t` the string `v` is appended to the staged output: written at OLEN in string order, and no other
location of OBUF changes (20_memory.md R52, R56). -/
def Stages (s t : State) (v : List Sym) : Prop :=
  t.olen = s.olen + v.length ∧
  t.obuf.readList s.olen v.length = v.map some ∧
  ∀ a, a < s.olen ∨ s.olen + v.length ≤ a → t.obuf.read a = s.obuf.read a

/-- The output string `OUT[0..OUT_LEN-1]` (10_state.md R36). -/
def State.output (s : State) : List (Option Sym) := s.obuf.readList 0 s.outLen

/-- What a host sees of a finished command whose function returned `r` (43_dispatch.md R170). -/
def State.shows (s : State) (r : Result) : Prop :=
  match r with
  | .ok out => s.phase = .done ∧ s.err = none ∧ s.outLen = out.length ∧ s.output = out.map some
  | .err k pos => s.phase = .done ∧ s.err = some k ∧ s.errPos = pos ∧ s.outLen = 0

/-- The next turn of `s` is the sequencer's, which takes it in the state `u`: `s` itself, or `s` without a turn `run`
that asked for it. -/
inductive State.SequencerTurn : State → State → Prop where
  /-- Nothing is pending. -/
  | free (s : State) : s.pending = [] → State.SequencerTurn s s
  /-- The turn is the sequencer's by name. -/
  | run (s : State) (rest : List Turn) : s.pending = .run :: rest → State.SequencerTurn s { s with pending := rest }
  /-- The host polls and PHASE is not DONE. -/
  | poll (s : State) (rest : List Turn) : s.pending = .poll :: rest → s.phase ≠ .done → State.SequencerTurn s s

/-- `s` with the host's START as the next turn, and the sequencer's turns after it. -/
def State.starting (s : State) : State := { s with pending := [.host (.writeReg 2 1)] }

/-- `n` steps of the block. -/
def runSteps (n : Nat) (s : State) : Host.Outcome State Fault Refusal := Host.Core.run Sys2Proof.core n s

end Sys2Proof.Machine
end

