-- ==== Sys2Proof/Certificates/Slice0/Obligations.lean ====
section
/-! DEFINITION. The statements for the provers, from the numbered rules of spec/. In a statement about an instruction
the equation of records says the frame: every field that it does not name is unchanged. -/

open Sys2Proof Sys2Proof.Machine

/-! ### Encodings and tables -/

/-- Decoding what the encoder writes gives the instruction back, for every well-formed instruction and every legal
letter table (30_encoding.md R70 to R90). -/
def Obligations.DecodeOfEncodeIsTheInstruction : Prop :=
  ∀ (cfg : Config) (i : Instr), cfg.lutValid = true → i.wf cfg = true →
    decode cfg (encode cfg i).1 (encode cfg i).2 = .ok i

/-- Every list of symbols that the decoder accepts is the encoding of the instruction it gives, which is well formed;
only the end of the input of the decoder is read in two formats (30_encoding.md R70 to R90). -/
def Obligations.EncodeOfDecodeIsTheWord : Prop :=
  ∀ (cfg : Config) (f : Format) (ws : List Sym) (i : Instr), decode cfg f ws = .ok i →
    i.wf cfg = true ∧ (encode cfg i).2 = ws ∧ ((encode cfg i).1 = f ∨ (i = .decEnd ∧ ∃ m, f = .dec m))

/-- A few words, written out from the opcode table, decode to their instructions: one or more of each family (the letter
cells of the table rest on the default letter table, log 3). -/
def Obligations.SampleWordsDecode : Prop :=
  decode implementation .cmd [0b10] = .ok .cmdDecode ∧
  decode implementation .ctrl [0b01] = .ok .ctrlStart ∧
  decode implementation .ctrl [0b11] = .ok (.ctrlReset true) ∧
  decode implementation .cls [0b000000000000001001111] = .ok .clsO ∧
  decode implementation .cls [0b000000000000000101110] = .ok .clsDot ∧
  decode implementation .cls [0b000000000000001101111] = .ok (.clsEng 0x6F) ∧
  decode implementation .cls [0b000000000000000100001] = .ok (.clsOther 0x21) ∧
  decode implementation .enc [0b000000000000001001111] = .ok (.encUpper 14) ∧
  decode implementation .enc [0b000000000000000110000] = .ok (.encDigit 0) ∧
  decode implementation (.dec false) [0x2E, 0x4F, 0x4F, 0x4F, 0x2E, 0x2E] = .ok (.decLetter 9) ∧
  decode implementation (.dec true) [0x2E, 0x4F, 0x4F, 0x4F, 0x2E, 0x2E] = .ok (.decDigit 0) ∧
  decode implementation (.dec true) [0x2E, 0x4F, 0x2E, 0x4F, 0x4F, 0x4F] = .ok (.decNum true)

/-- Which lists of symbols are instructions depends on their number alone: one for CHAR, six for CELL, none at an end of
input, and a two-bit code for CMD and CTRL (30_encoding.md R70, R86). -/
def Obligations.DecodeAcceptsExactlyTheFormatLengths : Prop :=
  ∀ (cfg : Config) (f : Format) (ws : List Sym),
    (∃ i, decode cfg f ws = .ok i) ↔
      match f with
      | .cmd | .ctrl => ∃ w : Sym, ws = [w] ∧ w.toNat < 4
      | .cls | .enc => ws.length ≤ 1
      | .pre => ws.length = 0
      | .dec _ => ws.length = 0 ∨ ws.length = 6

/-- `CellStr` and `CellBits` are inverse to each other, position `k` is bit `5 - k`, and a string that is not six
symbols over `O` and `.` has no packed form (30_encoding.md R73, R83). -/
def Obligations.CellStringAndPackedFormAgree : Prop :=
  (∀ b : Cell, cellBits (cellStr b) = some b) ∧
  (∀ (g : List Sym) (b : Cell), cellBits g = some b →
    cellStr b = g ∧ ∀ k, k < 6 → (g[k]? = some symO ↔ b.getLsbD (5 - k) = true)) ∧
  (∀ g : List Sym, (cellBits g).isSome = true ↔ g.length = 6 ∧ ∀ c ∈ g, c = 0x4F ∨ c = 0x2E)

/-- The three named cells, string and packed, and that they differ from each other and from every letter and digit cell
(30_encoding.md R74). -/
def Obligations.NamedCellsAreDistinct : Prop :=
  cellBits [0x2E, 0x2E, 0x2E, 0x2E, 0x2E, 0x2E] = some spaceCell ∧ spaceCell = 0x00 ∧
  cellBits [0x2E, 0x2E, 0x2E, 0x2E, 0x2E, 0x4F] = some capCell ∧ capCell = 0x01 ∧
  cellBits [0x2E, 0x4F, 0x2E, 0x4F, 0x4F, 0x4F] = some numCell ∧ numCell = 0x17 ∧
  capCell ≠ spaceCell ∧ numCell ≠ spaceCell ∧ capCell ≠ numCell ∧
  ∀ cfg : Config, cfg.lutValid = true →
    (∀ i, letterCell cfg i ≠ spaceCell ∧ letterCell cfg i ≠ capCell ∧ letterCell cfg i ≠ numCell) ∧
    (∀ d, digitCell cfg d ≠ spaceCell ∧ digitCell cfg d ≠ capCell ∧ digitCell cfg d ≠ numCell)

/-- `DIGIT_LUT[d] = LETTER_LUT[(d + 9) mod 10]`, and its ten default rows (30_encoding.md R76; the rows
of `e` to `i` rest on the default letter table, log 3). -/
def Obligations.DigitTableIsTheFirstTenLetters : Prop :=
  (∀ (cfg : Config) (d : Fin 10) (i : Fin 26), i.val = (d.val + 9) % 10 → digitCell cfg d = letterCell cfg i) ∧
  (List.finRange 10).map (digitCell implementation) =
    [0x1C, 0x20, 0x28, 0x30, 0x34, 0x24, 0x38, 0x3C, 0x2C, 0x18]

/-- The reverse letter table inverts the letter table and the named cells, and has no other entry (30_encoding.md R77). -/
def Obligations.ReverseLetterTableInverts : Prop :=
  ∀ cfg : Config, cfg.lutValid = true →
    (∀ b i, revLet cfg b = .letter i ↔ letterCell cfg i = b) ∧
    (∀ b, revLet cfg b = .space ↔ b = spaceCell) ∧
    (∀ b, revLet cfg b = .cap ↔ b = capCell) ∧
    (∀ b, revLet cfg b = .num ↔ b = numCell) ∧
    (∀ b, revLet cfg b = .none ↔
      b ≠ spaceCell ∧ b ≠ capCell ∧ b ≠ numCell ∧ ∀ i, letterCell cfg i ≠ b)

/-- The reverse digit table inverts the digit table, has exactly ten entries, and both reverse tables with the default
letter table (log 3) are the 64 rows of 30_encoding.md R78. -/
def Obligations.ReverseDigitTableInverts : Prop :=
  (∀ cfg : Config, cfg.lutValid = true →
    (∀ b d, revDig cfg b = some d ↔ digitCell cfg d = b) ∧
    (∀ b, revDig cfg b = none ↔ ∀ d, digitCell cfg d ≠ b) ∧
    ((List.finRange 64).filter fun n => (revDig cfg (BitVec.ofFin n)).isSome).length = 10) ∧
  ((List.finRange 64).filterMap fun n =>
      match revLet implementation (BitVec.ofFin n) with
      | .none => none
      | e => some (n.val, e, revDig implementation (BitVec.ofFin n))) =
    [(0x00, .space, none), (0x01, .cap, none), (0x17, .num, none), (0x18, .letter 8, some 9),
     (0x1A, .letter 18, none), (0x1C, .letter 9, some 0), (0x1D, .letter 22, none), (0x1E, .letter 19, none),
     (0x20, .letter 0, some 1), (0x22, .letter 10, none), (0x23, .letter 20, none), (0x24, .letter 4, some 5),
     (0x26, .letter 14, none), (0x27, .letter 25, none), (0x28, .letter 1, some 2), (0x2A, .letter 11, none),
     (0x2B, .letter 21, none), (0x2C, .letter 7, some 8), (0x2E, .letter 17, none), (0x30, .letter 2, some 3),
     (0x32, .letter 12, none), (0x33, .letter 23, none), (0x34, .letter 3, some 4), (0x36, .letter 13, none),
     (0x37, .letter 24, none), (0x38, .letter 5, some 6), (0x3A, .letter 15, none), (0x3C, .letter 6, some 7),
     (0x3E, .letter 16, none)]

/-- With every legal letter table exactly 35 of the 64 cell patterns are unassigned (30_encoding.md R85). -/
def Obligations.UnassignedPatternsAreThirtyFive : Prop :=
  ∀ cfg : Config, cfg.lutValid = true →
    ((List.finRange 64).filter fun n => revLet cfg (BitVec.ofFin n) == .none).length = 35

/-- The five encoder classes by their ranges (30_encoding.md R80). -/
def Obligations.EncoderClassesByRange : Prop :=
  ∀ c : Sym,
    (encClass c = .upper ↔ 0x41 ≤ c.toNat ∧ c.toNat ≤ 0x5A) ∧
    (encClass c = .lower ↔ 0x61 ≤ c.toNat ∧ c.toNat ≤ 0x7A) ∧
    (encClass c = .digit ↔ 0x30 ≤ c.toNat ∧ c.toNat ≤ 0x39) ∧
    (encClass c = .space ↔ c.toNat = 0x20) ∧
    (encClass c = .other ↔
      ¬(0x41 ≤ c.toNat ∧ c.toNat ≤ 0x5A) ∧ ¬(0x61 ≤ c.toNat ∧ c.toNat ≤ 0x7A) ∧
      ¬(0x30 ≤ c.toNat ∧ c.toNat ≤ 0x39) ∧ c.toNat ≠ 0x20)

/-- The four classifier classes; on the ASCII range K_ENG is the space, the digits, the uppercase letters without `O`
and the lowercase letters; what is not English, and every symbol above 0x7F, is OTHER for the encoder
(30_encoding.md R81). -/
def Obligations.ClassifierClassesByPredicate : Prop :=
  ∀ (cfg : Config) (c : Sym),
    (clsClass cfg c = .o ↔ c = 0x4F) ∧
    (clsClass cfg c = .dot ↔ c = 0x2E) ∧
    (clsClass cfg c = .eng ↔ c ≠ 0x4F ∧ (uniLetter cfg c = true ∨ uniDigit cfg c = true ∨ c = 0x20)) ∧
    (clsClass cfg c = .other ↔
      c ≠ 0x4F ∧ c ≠ 0x2E ∧ uniLetter cfg c = false ∧ uniDigit cfg c = false ∧ c ≠ 0x20) ∧
    (c.toNat < 0x80 → (clsClass cfg c = .eng ↔ c.toNat = 0x20 ∨ (0x30 ≤ c.toNat ∧ c.toNat ≤ 0x39) ∨
      (0x41 ≤ c.toNat ∧ c.toNat ≤ 0x5A ∧ c.toNat ≠ 0x4F) ∨ (0x61 ≤ c.toNat ∧ c.toNat ≤ 0x7A))) ∧
    (clsClass cfg c = .dot ∨ clsClass cfg c = .other → encClass c = .other) ∧
    (0x7F < c.toNat → encClass c = .other)

/-- What is fixed of the two open predicates: their values below 0x80, and that they are false on values that are no
Unicode scalar value (00_scope.md R9, R6). -/
def Obligations.OpenPredicatesAreFixedOnAscii : Prop :=
  ∀ (cfg : Config) (c : Sym),
    (c.toNat < 0x80 →
      (uniLetter cfg c = true ↔
        (0x41 ≤ c.toNat ∧ c.toNat ≤ 0x5A) ∨ (0x61 ≤ c.toNat ∧ c.toNat ≤ 0x7A)) ∧
      (uniDigit cfg c = true ↔ 0x30 ≤ c.toNat ∧ c.toNat ≤ 0x39)) ∧
    ((0xD800 ≤ c.toNat ∧ c.toNat ≤ 0xDFFF) ∨ 0x10FFFF < c.toNat →
      uniLetter cfg c = false ∧ uniDigit cfg c = false)

/-- The cell dispatch of 42_decoder.md R137: the named cells in both modes, then the reverse table of the mode. -/
def Obligations.CellDispatchFollowsTheClauses : Prop :=
  ∀ (cfg : Config) (m : Bool) (g : List Sym), g.length = 6 →
    (cellBits g = none → decode cfg (.dec m) g = .ok (.decUnknown m g)) ∧
    (∀ b, cellBits g = some b →
      (b = capCell → decode cfg (.dec m) g = .ok (.decCap m)) ∧
      (b = numCell → decode cfg (.dec m) g = .ok (.decNum m)) ∧
      (b = spaceCell → decode cfg (.dec m) g = .ok (.decSpace m)) ∧
      (b ≠ capCell ∧ b ≠ numCell ∧ b ≠ spaceCell → m = true →
        (∀ d, revDig cfg b = some d → decode cfg (.dec m) g = .ok (.decDigit d)) ∧
        (revDig cfg b = none → decode cfg (.dec m) g = .ok (.decUnknown m g))) ∧
      (b ≠ capCell ∧ b ≠ numCell ∧ b ≠ spaceCell → m = false →
        (∀ j, revLet cfg b = .letter j → decode cfg (.dec m) g = .ok (.decLetter j)) ∧
        (revLet cfg b = .none → decode cfg (.dec m) g = .ok (.decUnknown m g))))

/-! ### The classifier -/

/-- `CLS.O`: the symbol 0x4F; CLS_SEEN <- 1, IDX advances, nothing else changes (40_classifier.md R101). -/
def Obligations.ClsOSetsSeen : Prop :=
  (∀ cfg, decode cfg .cls [0x4F] = .ok .clsO) ∧
  ∀ s : State, exec .clsO s = .next { s with clsSeen := true, idx := s.idx + 1 }

/-- `CLS.DOT`: the symbol 0x2E; CLS_SEEN <- 1, CLS_E <- 0, IDX advances, nothing else changes (40_classifier.md R102). -/
def Obligations.ClsDotClearsEnglish : Prop :=
  (∀ cfg, decode cfg .cls [0x2E] = .ok .clsDot) ∧
  ∀ s : State, exec .clsDot s = .next { s with clsSeen := true, clsE := false, idx := s.idx + 1 }

/-- `CLS.ENG`: a symbol of class K_ENG; CLS_SEEN <- 1, CLS_B <- 0, IDX advances, nothing else changes
(40_classifier.md R103). -/
def Obligations.ClsEngClearsBraille : Prop :=
  (∀ (cfg : Config) (c : Sym), c ≠ 0x4F → uniLetter cfg c = true ∨ uniDigit cfg c = true ∨ c = 0x20 →
    decode cfg .cls [c] = .ok (.clsEng c)) ∧
  ∀ (c : Sym) (s : State), exec (.clsEng c) s = .next { s with clsSeen := true, clsB := false, idx := s.idx + 1 }

/-- `CLS.OTHER`: every other symbol; CLS_SEEN <- 1, CLS_B <- 0, CLS_E <- 0, IDX advances, nothing else changes
(40_classifier.md R104). -/
def Obligations.ClsOtherClearsBoth : Prop :=
  (∀ (cfg : Config) (c : Sym),
    c ≠ 0x4F → c ≠ 0x2E → uniLetter cfg c = false → uniDigit cfg c = false → c ≠ 0x20 →
    decode cfg .cls [c] = .ok (.clsOther c)) ∧
  ∀ (c : Sym) (s : State),
    exec (.clsOther c) s = .next { s with clsSeen := true, clsB := false, clsE := false, idx := s.idx + 1 }

/-- `CLS.END` in phase CLASSIFY: TAG is the verdict of the three flags; then, in the same step, TRANSLATE branches on it
and CLASSIFY finishes (40_classifier.md R105, 43_dispatch.md R162, R163; that TAG keeps this value where the branch raises
UnclassifiableInput is the model's reading, log 22). -/
def Obligations.ClsEndWritesTagThenRunsTheCommand : Prop :=
  (∀ cfg, decode cfg .cls [] = .ok .clsEnd) ∧
  ∀ s : State, s.phase = .classify →
    (s.cmd = .classify → exec .clsEnd s =
      .next { s with tag := some s.verdict, outLen := s.olen, phase := .done }) ∧
    (s.cmd = .translate → s.clsSeen = true → s.clsB = true → exec .clsEnd s =
      .next { s with tag := some .braille, idx := 0, phase := .preflight }) ∧
    (s.cmd = .translate → s.clsSeen = true → s.clsB = false → s.clsE = true → exec .clsEnd s =
      .next { s with tag := some .english, idx := 0, phase := .encode }) ∧
    (s.cmd = .translate → s.clsSeen = false ∨ (s.clsB = false ∧ s.clsE = false) → exec .clsEnd s =
      .next { s with
        tag := some .other, err := some .unclassifiableInput, errPos := s.inLen, outLen := 0, phase := .done }) ∧
    (s.verdict = .other ↔ s.clsSeen = false ∨ (s.clsB = false ∧ s.clsE = false)) ∧
    (s.verdict = .braille ↔ s.clsSeen = true ∧ s.clsB = true) ∧
    (s.verdict = .english ↔ s.clsSeen = true ∧ s.clsB = false ∧ s.clsE = true)

/-! ### The encoder -/

/-- `ENC.UPPER`: an uppercase letter clears ENC_NUM and stages CAPITAL_FOLLOWS and its cell (41_encoder.md R116). -/
def Obligations.EncUpperStagesCapitalAndLetter : Prop :=
  (∀ (cfg : Config) (c : Sym), 0x41 ≤ c.toNat → c.toNat ≤ 0x5A →
    ∃ i : Fin 26, i.val = c.toNat - 0x41 ∧ decode cfg .enc [c] = .ok (.encUpper i)) ∧
  ∀ (i : Fin 26) (s : State), ∃ t, exec (.encUpper i) s = .next t ∧
    t = { s with encNum := false, idx := s.idx + 1, olen := t.olen, obuf := t.obuf } ∧
    Stages s t ([0x2E, 0x2E, 0x2E, 0x2E, 0x2E, 0x4F] ++ cellStr (letterCell s.cfg i))

/-- `ENC.LOWER`: a lowercase letter clears ENC_NUM and stages its cell (41_encoder.md R117). -/
def Obligations.EncLowerStagesTheLetter : Prop :=
  (∀ (cfg : Config) (c : Sym), 0x61 ≤ c.toNat → c.toNat ≤ 0x7A →
    ∃ i : Fin 26, i.val = c.toNat - 0x61 ∧ decode cfg .enc [c] = .ok (.encLower i)) ∧
  ∀ (i : Fin 26) (s : State), ∃ t, exec (.encLower i) s = .next t ∧
    t = { s with encNum := false, idx := s.idx + 1, olen := t.olen, obuf := t.obuf } ∧
    Stages s t (cellStr (letterCell s.cfg i))

/-- `ENC.DIGIT`: a digit stages its cell, after NUMBER_FOLLOWS when ENC_NUM is 0, and leaves ENC_NUM 1
(41_encoder.md R118). -/
def Obligations.EncDigitStagesIndicatorOncePerRun : Prop :=
  (∀ (cfg : Config) (c : Sym), 0x30 ≤ c.toNat → c.toNat ≤ 0x39 →
    ∃ d : Fin 10, d.val = c.toNat - 0x30 ∧ decode cfg .enc [c] = .ok (.encDigit d)) ∧
  ∀ (d : Fin 10) (s : State), ∃ t, exec (.encDigit d) s = .next t ∧
    t = { s with encNum := true, idx := s.idx + 1, olen := t.olen, obuf := t.obuf } ∧
    (s.encNum = false → Stages s t ([0x2E, 0x4F, 0x2E, 0x4F, 0x4F, 0x4F] ++ cellStr (digitCell s.cfg d))) ∧
    (s.encNum = true → Stages s t (cellStr (digitCell s.cfg d)))

/-- `ENC.SPACE`: a space clears ENC_NUM and stages the space cell (41_encoder.md R119). -/
def Obligations.EncSpaceStagesTheSpaceCell : Prop :=
  (∀ cfg, decode cfg .enc [0x20] = .ok .encSpace) ∧
  ∀ s : State, ∃ t, exec .encSpace s = .next t ∧
    t = { s with encNum := false, idx := s.idx + 1, olen := t.olen, obuf := t.obuf } ∧
    Stages s t [0x2E, 0x2E, 0x2E, 0x2E, 0x2E, 0x2E]

/-- `ENC.OTHER`: every other symbol raises UnsupportedCharacter at IDX, and `raise` writes its four fields only
(41_encoder.md R120, 60_exceptions.md R183). -/
def Obligations.EncOtherRaisesUnsupportedCharacter : Prop :=
  (∀ (cfg : Config) (c : Sym), ¬(0x41 ≤ c.toNat ∧ c.toNat ≤ 0x5A) → ¬(0x61 ≤ c.toNat ∧ c.toNat ≤ 0x7A) →
    ¬(0x30 ≤ c.toNat ∧ c.toNat ≤ 0x39) → c.toNat ≠ 0x20 → decode cfg .enc [c] = .ok (.encOther c)) ∧
  ∀ (c : Sym) (s : State), exec (.encOther c) s =
    .next { s with err := some .unsupportedCharacter, errPos := s.idx, outLen := 0, phase := .done }

/-- `ENC.END`: `Finish()` commits the staged output (41_encoder.md R121, 43_dispatch.md R167). -/
def Obligations.EncEndCommitsTheOutput : Prop :=
  (∀ cfg, decode cfg .enc [] = .ok .encEnd) ∧
  ∀ s : State, exec .encEnd s = .next { s with outLen := s.olen, phase := .done }

/-! ### The decoder -/

/-- `DEC.PRE`: a length that is no multiple of 6 raises TruncatedCell at the start of the incomplete cell; else
PHASE <- DECODE (42_decoder.md R136). -/
def Obligations.DecPreChecksTheLength : Prop :=
  (∀ cfg, decode cfg .pre [] = .ok .decPre) ∧
  ∀ s : State,
    (s.inLen % 6 = 0 → exec .decPre s = .next { s with phase := .decode }) ∧
    (s.inLen % 6 ≠ 0 → exec .decPre s = .next { s with
      err := some .truncatedCell, errPos := 6 * (s.inLen / 6), outLen := 0, phase := .done })

/-- `DEC.CAP`: sets DEC_CAP, or raises InvalidSequence when it is already 1 (42_decoder.md R138). -/
def Obligations.DecCapSetsPendingCapital : Prop :=
  (∀ cfg m, decode cfg (.dec m) [0x2E, 0x2E, 0x2E, 0x2E, 0x2E, 0x4F] = .ok (.decCap m)) ∧
  ∀ (m : Bool) (s : State),
    (s.decCap = false → exec (.decCap m) s = .next { s with decCap := true, idx := s.idx + 6 }) ∧
    (s.decCap = true → exec (.decCap m) s = .next { s with
      err := some .invalidSequence, errPos := s.idx, outLen := 0, phase := .done })

/-- `DEC.NUM`: sets DEC_NUM, or raises InvalidSequence when a capital is pending (42_decoder.md R139). -/
def Obligations.DecNumEntersNumberMode : Prop :=
  (∀ cfg m, decode cfg (.dec m) [0x2E, 0x4F, 0x2E, 0x4F, 0x4F, 0x4F] = .ok (.decNum m)) ∧
  ∀ (m : Bool) (s : State),
    (s.decCap = false → exec (.decNum m) s = .next { s with decNum := true, idx := s.idx + 6 }) ∧
    (s.decCap = true → exec (.decNum m) s = .next { s with
      err := some .invalidSequence, errPos := s.idx, outLen := 0, phase := .done })

/-- `DEC.SPACE`: stages a space and clears DEC_NUM, or raises InvalidSequence when a capital is pending
(42_decoder.md R140). -/
def Obligations.DecSpaceStagesASpace : Prop :=
  (∀ cfg m, decode cfg (.dec m) [0x2E, 0x2E, 0x2E, 0x2E, 0x2E, 0x2E] = .ok (.decSpace m)) ∧
  ∀ (m : Bool) (s : State),
    (s.decCap = false → ∃ t, exec (.decSpace m) s = .next t ∧
      t = { s with decNum := false, idx := s.idx + 6, olen := t.olen, obuf := t.obuf } ∧ Stages s t [0x20]) ∧
    (s.decCap = true → exec (.decSpace m) s = .next { s with
      err := some .invalidSequence, errPos := s.idx, outLen := 0, phase := .done })

/-- `DEC.DIGIT`: stages the digit, or raises InvalidSequence when a capital is pending (42_decoder.md R141). -/
def Obligations.DecDigitStagesTheDigit : Prop :=
  (∀ (cfg : Config) (d : Fin 10), cfg.lutValid = true →
    decode cfg (.dec true) (cellStr (digitCell cfg d)) = .ok (.decDigit d)) ∧
  ∀ (d : Fin 10) (s : State),
    (s.decCap = false → ∃ t, exec (.decDigit d) s = .next t ∧
      t = { s with idx := s.idx + 6, olen := t.olen, obuf := t.obuf } ∧
      Stages s t [BitVec.ofNat 21 (0x30 + d.val)]) ∧
    (s.decCap = true → exec (.decDigit d) s = .next { s with
      err := some .invalidSequence, errPos := s.idx, outLen := 0, phase := .done })

/-- `DEC.LETTER`: stages the letter, uppercase exactly when a capital is pending, and clears DEC_CAP
(42_decoder.md R142). -/
def Obligations.DecLetterStagesTheLetter : Prop :=
  (∀ (cfg : Config) (j : Fin 26), cfg.lutValid = true →
    decode cfg (.dec false) (cellStr (letterCell cfg j)) = .ok (.decLetter j)) ∧
  ∀ (j : Fin 26) (s : State), ∃ t, exec (.decLetter j) s = .next t ∧
    t = { s with decCap := false, idx := s.idx + 6, olen := t.olen, obuf := t.obuf } ∧
    Stages s t [BitVec.ofNat 21 ((if s.decCap then 0x41 else 0x61) + j.val)]

/-- `DEC.UNKNOWN`: raises UnknownCell at IDX, whatever DEC_CAP is; in letter mode the cells without a letter entry, in
number mode those without a digit entry, and in both every group with a symbol outside `O` and `.`
(42_decoder.md R143). -/
def Obligations.DecUnknownRaisesUnknownCell : Prop :=
  (∀ (cfg : Config) (m : Bool) (g : List Sym), g.length = 6 → cellBits g = none →
    decode cfg (.dec m) g = .ok (.decUnknown m g)) ∧
  (∀ (cfg : Config) (b : Cell), revLet cfg b = .none →
    decode cfg (.dec false) (cellStr b) = .ok (.decUnknown false (cellStr b))) ∧
  (∀ (cfg : Config) (b : Cell), b ≠ spaceCell → b ≠ capCell → b ≠ numCell → revDig cfg b = none →
    decode cfg (.dec true) (cellStr b) = .ok (.decUnknown true (cellStr b))) ∧
  ∀ (m : Bool) (g : List Sym) (s : State), exec (.decUnknown m g) s =
    .next { s with err := some .unknownCell, errPos := s.idx, outLen := 0, phase := .done }

/-- `DEC.END`: commits the staged output, or raises DanglingCapital when a capital is pending (42_decoder.md R144). -/
def Obligations.DecEndCommitsOrRaisesDanglingCapital : Prop :=
  (∀ cfg m, decode cfg (.dec m) [] = .ok .decEnd) ∧
  ∀ s : State,
    (s.decCap = false → exec .decEnd s = .next { s with outLen := s.olen, phase := .done }) ∧
    (s.decCap = true → exec .decEnd s = .next { s with
      err := some .danglingCapital, errPos := s.inLen, outLen := 0, phase := .done })

/-! ### Commands, START, RESET, errors -/

/-- The four command codes where CLS.END and START read them: each selects its phase at START, TRANSLATE branches on TAG
and CLASSIFY finishes at CLS.END, and START and CLS.END execute the instruction whose code register CMD holds; a code
read in no phase has no effect, and ENCODE and DECODE have no rule at CLS.END (30_encoding.md R87, 43_dispatch.md R161 to
R165; the effects in the other phases and the two faults are the model's choice, log 14; that the TAG which CLS.END
writes stands where the command raises UnclassifiableInput is the model's reading, log 22). -/
def Obligations.CommandsActAtStartAndAtClsEnd : Prop :=
  (∀ cfg, decode cfg .cmd [0b00] = .ok .cmdTranslate ∧ decode cfg .cmd [0b01] = .ok .cmdEncode ∧
    decode cfg .cmd [0b10] = .ok .cmdDecode ∧ decode cfg .cmd [0b11] = .ok .cmdClassify) ∧
  (∀ (s : State) (i : Instr), decode s.cfg .cmd [s.cmd.code.setWidth 21] = .ok i →
    exec .clsEnd s = exec i { s with tag := some s.verdict } ∧
    (s.phase = .idle ∨ s.phase = .done → exec .ctrlStart s = exec i { s with
      tag := none, err := none, errPos := 0, outLen := 0, idx := 0, olen := 0,
      encNum := false, decCap := false, decNum := false, clsB := true, clsE := true, clsSeen := false })) ∧
  (∀ s : State, s.phase = .idle ∨ s.phase = .done →
    exec .cmdTranslate s = .next { s with phase := .classify } ∧
    exec .cmdClassify s = .next { s with phase := .classify } ∧
    exec .cmdEncode s = .next { s with phase := .encode } ∧
    exec .cmdDecode s = .next { s with phase := .preflight }) ∧
  (∀ s : State, s.phase = .classify →
    (s.tag = some .braille → exec .cmdTranslate s = .next { s with idx := 0, phase := .preflight }) ∧
    (s.tag = some .english → exec .cmdTranslate s = .next { s with idx := 0, phase := .encode }) ∧
    (s.tag = some .other → exec .cmdTranslate s = .next { s with
      err := some .unclassifiableInput, errPos := s.inLen, outLen := 0, phase := .done }) ∧
    exec .cmdClassify s = .next { s with outLen := s.olen, phase := .done } ∧
    exec .cmdEncode s = .fault .noRuleForCommand ∧
    exec .cmdDecode s = .fault .noRuleForCommand) ∧
  (∀ s : State, s.phase = .encode ∨ s.phase = .preflight ∨ s.phase = .decode →
    exec .cmdTranslate s = .next s ∧ exec .cmdEncode s = .next s ∧
    exec .cmdDecode s = .next s ∧ exec .cmdClassify s = .next s)

/-- `CTRL.START`: in IDLE and DONE the working state is re-initialised and CMD selects the phase; while busy it is
ignored (43_dispatch.md R161). -/
def Obligations.StartInitialisesAndSelectsThePhase : Prop :=
  (∀ cfg, decode cfg .ctrl [0b01] = .ok .ctrlStart) ∧
  ∀ s : State,
    (s.phase = .idle ∨ s.phase = .done → exec .ctrlStart s = .next { s with
      tag := none, err := none, errPos := 0, outLen := 0, idx := 0, olen := 0,
      encNum := false, decCap := false, decNum := false, clsB := true, clsE := true, clsSeen := false,
      phase := match s.cmd with
        | .translate | .classify => .classify
        | .encode => .encode
        | .decode => .preflight }) ∧
    (s.phase ≠ .idle → s.phase ≠ .done → exec .ctrlStart s = .next s)

/-- `CTRL.RESET`: in every phase, every register and flag takes its reset value; IN and OBUF keep their contents
(43_dispatch.md R166, 10_state.md R41). -/
def Obligations.ResetRestoresEveryRegister : Prop :=
  (∀ cfg, decode cfg .ctrl [0b10] = .ok (.ctrlReset false) ∧ decode cfg .ctrl [0b11] = .ok (.ctrlReset true)) ∧
  ∀ (b : Bool) (s : State), exec (.ctrlReset b) s = .next { State.reset with
    inBuf := s.inBuf, obuf := s.obuf, cfg := s.cfg,
    pending := s.pending, readData := s.readData, freeReads := s.freeReads }

/-- A host write of CTRL: bit 1 is RESET and wins, bit 0 is START, neither does nothing, and a read of CTRL returns 0
(10_state.md R31). -/
def Obligations.CtrlWriteStartsOrResets : Prop :=
  (∀ (s : State) (v : BitVec 2),
    (v.getLsbD 1 = true → hostOperation (.writeReg 2 v.toNat) s = exec (.ctrlReset (v.getLsbD 0)) s) ∧
    (v.getLsbD 1 = false → v.getLsbD 0 = true → hostOperation (.writeReg 2 v.toNat) s = exec .ctrlStart s) ∧
    (v.getLsbD 1 = false → v.getLsbD 0 = false →
      hostOperation (.writeReg 2 v.toNat) s = exec .ctrlNone s ∧ exec .ctrlNone s = .next s)) ∧
  ∀ s : State, hostOperation (.readReg 2) s = .next { s with readData := 0 }

/-- An instruction that records an error wrote ERR, ERR_POS, OUT_LEN and PHASE and nothing else, except that CLS.END
has written TAG before (log 22); and it is never MissingArguments (60_exceptions.md R183, R182). -/
def Obligations.RaiseWritesOnlyTheErrorFields : Prop :=
  ∀ (i : Instr) (s t : State) (k : ErrKind), exec i s = .next t → s.err = none → t.err = some k →
    k ≠ .missingArguments ∧
    t = { s with
      err := some k, errPos := t.errPos, outLen := 0, phase := .done,
      tag := if i = .clsEnd then some s.verdict else s.tag }

/-! ### The host's side -/

/-- The bits of STATUS and FLAGS, and the codes of PHASE, CMD, TAG and ERR (10_state.md R28, R29, R32, R33, R37,
60_exceptions.md R175). -/
def Obligations.StatusAndFlagsBits : Prop :=
  (Phase.code .idle = 0 ∧ Phase.code .classify = 1 ∧ Phase.code .encode = 2 ∧ Phase.code .preflight = 3 ∧
    Phase.code .decode = 4 ∧ Phase.code .done = 5) ∧
  (Cmd.code .translate = 0 ∧ Cmd.code .encode = 1 ∧ Cmd.code .decode = 2 ∧ Cmd.code .classify = 3) ∧
  (tagCode none = 0 ∧ tagCode (some .braille) = 1 ∧ tagCode (some .english) = 2 ∧ tagCode (some .other) = 3) ∧
  (errCode none = 0 ∧ errCode (some .missingArguments) = 1 ∧ errCode (some .unclassifiableInput) = 2 ∧
    errCode (some .unsupportedCharacter) = 3 ∧ errCode (some .truncatedCell) = 4 ∧ errCode (some .unknownCell) = 5 ∧
    errCode (some .invalidSequence) = 6 ∧ errCode (some .danglingCapital) = 7) ∧
  ∀ s : State,
    s.statusView.extractLsb' 0 3 = s.phase.code ∧
    s.statusView.extractLsb' 3 2 = tagCode s.tag ∧
    s.statusView.extractLsb' 5 3 = errCode s.err ∧
    s.flagsView.getLsbD 0 = s.encNum ∧ s.flagsView.getLsbD 1 = s.decCap ∧ s.flagsView.getLsbD 2 = s.decNum ∧
    s.flagsView.getLsbD 3 = s.clsB ∧ s.flagsView.getLsbD 4 = s.clsE ∧ s.flagsView.getLsbD 5 = s.clsSeen

/-- What a read of each register number returns, and that a read changes nothing but the value on the read port, which is
the model's own field (20_memory.md R58, 43_dispatch.md R170; log 12). -/
def Obligations.RegisterReadsFollowTheMap : Prop :=
  ∀ s : State,
    hostOperation (.readReg 0) s = .next { s with readData := s.cmd.code.toNat } ∧
    (s.cmd = .translate → hostOperation (.readReg 0) s = .next { s with readData := 0 }) ∧
    (s.cmd = .encode → hostOperation (.readReg 0) s = .next { s with readData := 1 }) ∧
    (s.cmd = .decode → hostOperation (.readReg 0) s = .next { s with readData := 2 }) ∧
    (s.cmd = .classify → hostOperation (.readReg 0) s = .next { s with readData := 3 }) ∧
    hostOperation (.readReg 1) s = .next { s with readData := s.inLen } ∧
    hostOperation (.readReg 3) s = .next { s with readData := s.statusView.toNat } ∧
    hostOperation (.readReg 4) s = .next { s with readData := s.errPos } ∧
    hostOperation (.readReg 5) s = .next { s with readData := s.outLen } ∧
    hostOperation (.readReg 6) s = .next { s with readData := s.flagsView.toNat } ∧
    ∀ n, n = 2 ∨ 7 ≤ n → hostOperation (.readReg n) s = .next { s with readData := 0 }

/-- While the block is busy every host write but RESET leaves the state as it is (20_memory.md R63). -/
def Obligations.WritesWhileBusyAreIgnored : Prop :=
  ∀ s : State, s.phase ≠ .idle → s.phase ≠ .done →
    (∀ w i v, hostOperation (.writeWindow w i v) s = .next s) ∧
    (∀ n v, n ≠ 2 → hostOperation (.writeReg n v) s = .next s) ∧
    (∀ v : BitVec 2, v.getLsbD 1 = false → hostOperation (.writeReg 2 v.toNat) s = .next s)

/-- When the block is not busy: CMD takes the two-bit code, IN_LEN takes a value up to IN_CAP and ignores a greater one,
`IN[i]` takes the symbol below IN_CAP, and every other write is ignored (10_state.md R29, R30, 20_memory.md R58).
The last three clauses are the model's choice (log 10): of a value with more bits than CMD, CTRL or `IN[i]` has, the low
bits are written. -/
def Obligations.WritesWhenNotBusyTakeEffect : Prop :=
  ∀ s : State, s.phase = .idle ∨ s.phase = .done →
    (∀ c : Cmd, hostOperation (.writeReg 0 c.code.toNat) s = .next { s with cmd := c }) ∧
    (hostOperation (.writeReg 0 0) s = .next { s with cmd := .translate } ∧
      hostOperation (.writeReg 0 1) s = .next { s with cmd := .encode } ∧
      hostOperation (.writeReg 0 2) s = .next { s with cmd := .decode } ∧
      hostOperation (.writeReg 0 3) s = .next { s with cmd := .classify }) ∧
    (∀ v, v ≤ s.cfg.inCap → hostOperation (.writeReg 1 v) s = .next { s with inLen := v }) ∧
    (∀ v, s.cfg.inCap < v → hostOperation (.writeReg 1 v) s = .next s) ∧
    (∀ n v, 3 ≤ n → hostOperation (.writeReg n v) s = .next s) ∧
    (∀ (i : Nat) (v : Sym), i < s.cfg.inCap → ∃ t,
      hostOperation (.writeWindow 16 i v.toNat) s = .next t ∧ t = { s with inBuf := t.inBuf } ∧
      t.inAt i = v ∧ ∀ j, j ≠ i → t.inBuf.read j = s.inBuf.read j) ∧
    (∀ i v, s.cfg.inCap ≤ i → hostOperation (.writeWindow 16 i v) s = .next s) ∧
    (∀ w i v, w ≠ 16 → hostOperation (.writeWindow w i v) s = .next s) ∧
    (∀ v, hostOperation (.writeReg 0 v) s = hostOperation (.writeReg 0 (v % 4)) s) ∧
    (∀ v, hostOperation (.writeReg 2 v) s = hostOperation (.writeReg 2 (v % 4)) s) ∧
    (∀ i v, hostOperation (.writeWindow 16 i v) s = hostOperation (.writeWindow 16 i (v % 0x200000)) s)

/-- A read of `OUT[k]`: the staged symbol below OUT_LEN; from OUT_LEN on the next free value; from OUT_CAP on 0. A read
of `IN[i]` returns the stored symbol (10_state.md R39, 20_memory.md R58; the counter of free values and the 0 of a read
of IN past IN_CAP are the model's choices, log 6 and log 11). -/
def Obligations.WindowReadsFollowTheMap : Prop :=
  ∀ s : State,
    (∀ k v, k < s.cfg.outCap → k < s.outLen → s.obuf.read k = some v →
      hostOperation (.readWindow 17 k) s = .next { s with readData := v.toNat }) ∧
    (∀ k, k < s.cfg.outCap → s.outLen ≤ k → hostOperation (.readWindow 17 k) s =
      .next { s with readData := (Config.freeOut s.freeReads).toNat, freeReads := s.freeReads + 1 }) ∧
    (∀ k, s.cfg.outCap ≤ k → hostOperation (.readWindow 17 k) s = .next { s with readData := 0 }) ∧
    (∀ i, i < s.cfg.inCap → hostOperation (.readWindow 16 i) s = .next { s with readData := (s.inAt i).toNat }) ∧
    (∀ i, s.cfg.inCap ≤ i → hostOperation (.readWindow 16 i) s = .next { s with readData := 0 }) ∧
    (∀ w i, w ≠ 16 → w ≠ 17 → hostOperation (.readWindow w i) s = .next { s with readData := 0 })

/-! ### The step function -/

/-- In every turn of the sequencer, whatever is pending after it, a step runs the instruction that the decoder reads at
IDX in the format of the phase, and adds nothing to it but the removal of a turn `run`; in IDLE and DONE the sequencer has
no step and the state stays as it is (43_dispatch.md R168, 60_exceptions.md R194; log 1 for the turns, log 13). -/
def Obligations.StepRunsTheDecodedInstruction : Prop :=
  ∀ s u : State, s.SequencerTurn u →
    (s.phase = .idle ∨ s.phase = .done → step s = .next u) ∧
    (s.phase = .preflight → step s = exec .decPre u) ∧
    ∀ i : Instr, s.idx ≤ s.inLen →
      (s.phase = .classify → decode s.cfg .cls (s.memRead s.idx (min 1 (s.inLen - s.idx))) = .ok i →
        step s = exec i u) ∧
      (s.phase = .encode → decode s.cfg .enc (s.memRead s.idx (min 1 (s.inLen - s.idx))) = .ok i →
        step s = exec i u) ∧
      (s.phase = .decode → decode s.cfg (.dec s.decNum) (s.memRead s.idx (min 6 (s.inLen - s.idx))) = .ok i →
        step s = exec i u)

/-- Whose turn it is: a pending turn is taken and removed, a poll stays until PHASE is DONE (10_state.md R20,
70_reset_and_hazards.md R203; the list of turns is the model's own, log 1). -/
def Obligations.TurnsAreTakenInOrder : Prop :=
  ∀ (s : State) (rest : List Turn),
    (s.pending = [] → step s = s.sequence) ∧
    (s.pending = .run :: rest → step s = State.sequence { s with pending := rest }) ∧
    (∀ op, s.pending = .host op :: rest → step s = hostOperation op { s with pending := rest }) ∧
    (s.pending = .poll :: rest → s.phase = .done →
      step s = .next { s with pending := rest, readData := s.statusView.toNat }) ∧
    (s.pending = .poll :: rest → s.phase ≠ .done → step s = s.sequence) ∧
    (s.pending = .resetInput :: rest → step s = exec (.ctrlReset false) { s with pending := rest })

/-- The state after reset (10_state.md R41): every register and flag, STATUS reads 0x00 and FLAGS reads 0x18. -/
def Obligations.ResetStateHasTheListedValues : Prop :=
  State.reset.phase = .idle ∧ State.reset.cmd = .translate ∧ State.reset.inLen = 0 ∧ State.reset.tag = none ∧
  State.reset.err = none ∧ State.reset.errPos = 0 ∧ State.reset.outLen = 0 ∧ State.reset.idx = 0 ∧
  State.reset.olen = 0 ∧ State.reset.encNum = false ∧ State.reset.decCap = false ∧ State.reset.decNum = false ∧
  State.reset.clsB = true ∧ State.reset.clsE = true ∧ State.reset.clsSeen = false ∧
  State.reset.statusView = 0x00 ∧ State.reset.flagsView = 0x18

/-- A step of the sequencer writes neither IN, CMD, IN_LEN nor the tables, whatever turns are pending after it, and no step
of any agent writes the tables (10_state.md R29, R30, R38, R40, R20; log 1 for the turns). -/
def Obligations.SequencerNeverWritesTheInput : Prop :=
  (∀ s u t : State, s.SequencerTurn u → step s = .next t →
    t.inBuf = s.inBuf ∧ t.cmd = s.cmd ∧ t.inLen = s.inLen ∧ t.pending = u.pending) ∧
  ∀ s t : State, step s = .next t → t.cfg = s.cfg

/-! ### Invariants -/

/-- The two invariants of the block hold after reset (10_state.md R41; the parameters of the reset state are log 2 and
log 3). -/
def Obligations.InvariantHoldsAtReset : Prop := State.reset.Inv ∧ State.reset.FlagsTrack

/-- Every step keeps the invariant of the block, from every state that meets it: the ranges of the registers
(10_state.md R22 to R36), the canonical form and bounds of the two buffers (20_memory.md R50, R65), the alignment of the
decoder (R54), nothing visible but a whole output (R39), and the phase graph's pairings (43_dispatch.md R168). -/
def Obligations.EveryStepKeepsTheInvariant : Prop :=
  ∀ s t : State, s.Inv → step s = .next t → t.Inv

/-- From every state that meets the invariant a step answers a next state: "The block cannot hang, cannot wait and has
no stuck state while busy" (43_dispatch.md R169). -/
def Obligations.InvariantStatesAlwaysStep : Prop :=
  ∀ s : State, s.Inv → ∃ t, step s = .next t

/-- Every step keeps what the flags record of the input read so far: the last character in ENC_NUM, the last cell in
DEC_CAP, in DEC_NUM a NUMBER_FOLLOWS since the last space cell, every symbol in CLS_B, CLS_E and CLS_SEEN
(10_state.md R24 to R27). -/
def Obligations.EveryStepKeepsTheFlagsMeaning : Prop :=
  ∀ s t : State, s.FlagsTrack → step s = .next t → t.FlagsTrack

/-! ### Whole commands -/

/-- Command ENCODE computes `encode` of the input, in the step that starts it and at most IN_LEN + 1 more
(41_encoder.md R115, R123, 43_dispatch.md R164, R169; the host's START as a turn is the model's form, log 1). -/
def Obligations.EncodeCommandComputesEncode : Prop :=
  ∀ s : State, s.phase.busy = false → s.cmd = .encode →
    ∃ t, runSteps (1 + (s.inLen + 1)) s.starting = .next t ∧ t.shows (encodeFn s.cfg s.input) ∧ t.tag = none

/-- Command DECODE computes `decode` of the input, in the step that starts it and at most IN_LEN / 6 + 2 more
(42_decoder.md R135, R145, 43_dispatch.md R165, R169; the host's START as a turn is the model's form, log 1). -/
def Obligations.DecodeCommandComputesDecode : Prop :=
  ∀ s : State, s.phase.busy = false → s.cmd = .decode →
    ∃ t, runSteps (1 + (s.inLen / 6 + 2)) s.starting = .next t ∧ t.shows (decodeFn s.cfg s.input) ∧ t.tag = none

/-- Command CLASSIFY leaves `classify` of the input in TAG, without error and without output, in the step that starts it
and IN_LEN + 1 more (40_classifier.md R100, R106, 43_dispatch.md R163; the host's START as a turn is the model's form,
log 1). -/
def Obligations.ClassifyCommandComputesClassify : Prop :=
  ∀ s : State, s.phase.busy = false → s.cmd = .classify →
    ∃ t, runSteps (1 + (s.inLen + 1)) s.starting = .next t ∧ t.phase = .done ∧
      t.tag = some (classifyFn s.cfg s.input) ∧ t.err = none ∧ t.outLen = 0

/-- Command TRANSLATE computes `translate` of the input and leaves its tag in TAG, in the step that starts it and at most
as many more as 43_dispatch.md R169 counts for the tag (R160, R162, R170; the host's START as a turn is the model's
form, log 1; that TAG stands beside UnclassifiableInput is the model's reading, log 22). -/
def Obligations.TranslateCommandComputesTranslate : Prop :=
  ∀ s : State, s.phase.busy = false → s.cmd = .translate →
    ∃ t, runSteps (1 + (match classifyFn s.cfg s.input with
        | .english => (s.inLen + 1) + (s.inLen + 1)
        | .braille => (s.inLen + 1) + (s.inLen / 6 + 2)
        | .other => s.inLen + 1)) s.starting = .next t ∧
      t.shows (translateFn s.cfg s.input) ∧ t.tag = some (classifyFn s.cfg s.input)

/-- The result of a command depends on the command, the input string and the tables alone, not on what ran before:
two blocks that agree on these show a host the same after the same number of steps (70_reset_and_hazards.md R201,
00_scope.md R14; the host's START as a turn is the model's form, log 1). -/
def Obligations.ResultIsIndependentOfHistory : Prop :=
  ∀ s s' : State, s.phase.busy = false → s'.phase.busy = false →
    s.cmd = s'.cmd → s.cfg = s'.cfg → s.inLen = s'.inLen → s.input = s'.input →
    ∃ t t', runSteps (2 * s.inLen + 3) s.starting = .next t ∧ runSteps (2 * s.inLen + 3) s'.starting = .next t' ∧
      t.phase = .done ∧ t'.phase = .done ∧ t.statusView = t'.statusView ∧ t.errPos = t'.errPos ∧
      t.outLen = t'.outLen ∧ t.output = t'.output

/-- Every command ends: from every busy state that meets the two invariants, and no turn of the host, the block is in
DONE within 2 × IN_LEN + 2 steps (43_dispatch.md R169). -/
def Obligations.BusyBlockReachesDone : Prop :=
  ∀ s : State, s.Inv → s.FlagsTrack → s.phase.busy = true → s.pending = [] →
    ∃ t, runSteps (2 * s.inLen + 2) s = .next t ∧ t.phase = .done

/-! ### The functions -/

/-- Of a text of letters, digits and spaces, decoding what the encoder writes gives the text back exactly when no digit
is immediately followed by a letter, with every legal letter table; and what a digit and a letter alone come back as:
`a` to `j` as a digit, `k` to `z` and `K` to `Z` as UnknownCell, `A` to `J` as InvalidSequence (42_decoder.md R146,
70_reset_and_hazards.md R205). -/
def Obligations.DecodeOfEncodedTextIsTheText : Prop :=
  (∀ (cfg : Config) (s : List Sym), cfg.lutValid = true → (∀ c ∈ s, encClass c ≠ .other) →
    ∃ b, encodeFn cfg s = .ok b ∧
      (decodeFn cfg b = .ok s ↔ ∀ n c c', s[n]? = some c → s[n + 1]? = some c' → isDigit c = true →
        isUpper c' = false ∧ isLower c' = false)) ∧
  ∀ (cfg : Config) (d : Fin 10) (j : Fin 26), cfg.lutValid = true →
    ∃ b b', encodeFn cfg [digitSym d, lowerSym j] = .ok b ∧ encodeFn cfg [digitSym d, upperSym j] = .ok b' ∧
      (∀ e : Fin 10, j.val < 10 → e.val = (j.val + 1) % 10 →
        decodeFn cfg b = .ok [digitSym d, digitSym e] ∧ decodeFn cfg b' = .err .invalidSequence 18) ∧
      (10 ≤ j.val → decodeFn cfg b = .err .unknownCell 12 ∧ decodeFn cfg b' = .err .unknownCell 18)

/-- The length of the encoder's output is six times the number of letters, digits, spaces, uppercase letters again and
maximal digit runs, and the output is over `O` and `.` alone (41_encoder.md R123). -/
def Obligations.EncodedLengthCountsTheCells : Prop :=
  ∀ (cfg : Config) (s b : List Sym), encodeFn cfg s = .ok b →
    b.length = 6 * (s.length + s.countP isUpper +
      (List.range s.length).countP (fun n =>
        match s[n]? with
        | some c => isDigit c && (n == 0 || !(((s[n - 1]?).map isDigit).getD false))
        | none => false)) ∧
    ∀ c ∈ b, c = symO ∨ c = symDot

/-- `translate` never answers UnsupportedCharacter on ASCII input, and answers UnclassifiableInput exactly when the
input is classified Other (40_classifier.md R107, 60_exceptions.md R176, R177). -/
def Obligations.TranslateErrorsFollowTheClassifier : Prop :=
  ∀ (cfg : Config) (s : List Sym),
    ((∀ c ∈ s, c.toNat < 0x80) → ∀ pos, translateFn cfg s ≠ .err .unsupportedCharacter pos) ∧
    ((∃ pos, translateFn cfg s = .err .unclassifiableInput pos) ↔ classifyFn cfg s = .other)
end

