-- ==== Sys2Proof/Laws/Memory.lean ====
section
/-! SUPPORT. The laws of the symbol buffer: a read after a write, the frame of a write, and that every operation keeps
the canonical form and the bounds. -/

namespace Sys2Proof.Machine

/-- A read of the index just written gives the symbol, and a read of any other index is unchanged. -/
theorem Memory.read_write (m : Memory) (a b : Nat) (v : Sym) :
    (m.write a v).read b = if b = a then some v else m.read b := by
  induction m with
  | nil => by_cases h : b = a <;> simp [Memory.write, Memory.read, h]
  | cons e rest ih =>
    obtain ⟨c, w⟩ := e
    by_cases h1 : a < c
    · by_cases h : b = a <;> simp [Memory.write, Memory.read, h1, h]
    · by_cases h2 : a = c
      · subst h2
        by_cases h : b = a <;> simp [Memory.write, Memory.read, h]
      · by_cases h3 : b = c
        · simp [Memory.write, Memory.read, h1, h2, h3, Ne.symm h2]
        · simp [Memory.write, Memory.read, h1, h2, h3, ih]

theorem Memory.read_writeList_outside (m : Memory) (a b : Nat) (vs : List Sym)
    (h : b < a ∨ a + vs.length ≤ b) : (m.writeList a vs).read b = m.read b := by
  induction vs generalizing m a with
  | nil => rfl
  | cons v rest ih =>
    simp only [List.length_cons] at h
    have hb : b ≠ a := by omega
    rw [Memory.writeList, ih _ _ (by omega), Memory.read_write, if_neg hb]

theorem Memory.readList_congr (m m' : Memory) (a n : Nat)
    (h : ∀ b, a ≤ b → b < a + n → m.read b = m'.read b) : m.readList a n = m'.readList a n := by
  induction n generalizing a with
  | zero => rfl
  | succ n ih =>
    rw [Memory.readList, Memory.readList, h a (le_refl a) (by omega)]
    rw [ih (a + 1) fun b hb hb' => h b (by omega) (by omega)]

/-- Reading back what `writeList` stored. -/
theorem Memory.readList_writeList (m : Memory) (a : Nat) (vs : List Sym) :
    (m.writeList a vs).readList a vs.length = vs.map some := by
  induction vs generalizing m a with
  | nil => rfl
  | cons v rest ih =>
    rw [Memory.writeList, List.length_cons, Memory.readList, List.map_cons, ih]
    rw [Memory.read_writeList_outside _ _ _ _ (by omega), Memory.read_write, if_pos rfl]

theorem Memory.readList_append (m : Memory) (a n k : Nat) :
    m.readList a (n + k) = m.readList a n ++ m.readList (a + n) k := by
  induction n generalizing a with
  | zero => simp [Memory.readList]
  | succ n ih =>
    rw [Nat.succ_add, Memory.readList, Memory.readList, ih, List.cons_append]
    rw [show a + 1 + n = a + (n + 1) by omega]

theorem Memory.writeList_append (m : Memory) (a : Nat) (vs ws : List Sym) :
    m.writeList a (vs ++ ws) = (m.writeList a vs).writeList (a + vs.length) ws := by
  induction vs generalizing m a with
  | nil => rfl
  | cons v rest ih =>
    rw [List.cons_append, Memory.writeList, ih, Memory.writeList, List.length_cons]
    rw [show a + 1 + rest.length = a + (rest.length + 1) by omega]

/-- What is staged from index 0 on, after `vs` is appended at its end. -/
theorem Memory.readList_writeList_append (m : Memory) (n : Nat) (vs : List Sym) :
    (m.writeList n vs).readList 0 (n + vs.length) = m.readList 0 n ++ vs.map some := by
  rw [Memory.readList_append, Nat.zero_add, Memory.readList_writeList]
  rw [Memory.readList_congr (m.writeList n vs) m 0 n
    fun b _ hb => Memory.read_writeList_outside m n b vs (Or.inl (by omega))]

theorem Memory.rising_write (m : Memory) (lo a : Nat) (v : Sym) (hlo : lo ≤ a) (h : m.rising lo = true) :
    (m.write a v).rising lo = true := by
  induction m generalizing lo with
  | nil => simp [Memory.write, Memory.rising, hlo]
  | cons e rest ih =>
    obtain ⟨b, w⟩ := e
    simp only [Memory.rising, Bool.and_eq_true, decide_eq_true_eq] at h
    unfold Memory.write
    split_ifs with h1 h2
    · simp only [Memory.rising, Bool.and_eq_true, decide_eq_true_eq]
      exact ⟨hlo, by omega, h.2⟩
    · subst h2
      simp only [Memory.rising, Bool.and_eq_true, decide_eq_true_eq]
      exact h
    · simp only [Memory.rising, Bool.and_eq_true, decide_eq_true_eq]
      exact ⟨h.1, ih (b + 1) (by omega) h.2⟩

/-- A write keeps the canonical form. -/
theorem Memory.wf_write (m : Memory) (a : Nat) (v : Sym) (h : m.wf = true) : (m.write a v).wf = true :=
  Memory.rising_write m 0 a v (Nat.zero_le a) h

theorem Memory.wf_writeList (m : Memory) (a : Nat) (vs : List Sym) (h : m.wf = true) :
    (m.writeList a vs).wf = true := by
  induction vs generalizing m a with
  | nil => exact h
  | cons v rest ih => exact ih _ _ (Memory.wf_write m a v h)

theorem Memory.below_write (m : Memory) (n a : Nat) (v : Sym) (ha : a < n) (h : m.below n = true) :
    (m.write a v).below n = true := by
  induction m with
  | nil => simp [Memory.write, Memory.below, ha]
  | cons e rest ih =>
    obtain ⟨b, w⟩ := e
    simp only [Memory.below, List.all_cons, Bool.and_eq_true, decide_eq_true_eq] at h ih
    unfold Memory.write
    split_ifs with h1 h2
    · simp only [Memory.below, List.all_cons, Bool.and_eq_true, decide_eq_true_eq]
      exact ⟨ha, h⟩
    · simp only [Memory.below, List.all_cons, Bool.and_eq_true, decide_eq_true_eq]
      exact ⟨ha, h.2⟩
    · simp only [Memory.below, List.all_cons, Bool.and_eq_true, decide_eq_true_eq]
      exact ⟨h.1, ih h.2⟩

theorem Memory.below_writeList (m : Memory) (n a : Nat) (vs : List Sym) (ha : a + vs.length ≤ n)
    (h : m.below n = true) : (m.writeList a vs).below n = true := by
  induction vs generalizing m a with
  | nil => exact h
  | cons v rest ih =>
    simp only [List.length_cons] at ha
    exact ih _ _ (by omega) (Memory.below_write m n a v (by omega) h)

theorem reset_memory_wf : State.reset.inBuf.wf = true ∧ State.reset.obuf.wf = true := ⟨rfl, rfl⟩

end Sys2Proof.Machine
end

