-- ==== Sys2Proof/Laws/State.lean ====
section
/-! SUPPORT. For each named update of the state and each field of the state, what the field is after the update. -/

namespace Sys2Proof.Machine

@[simp] theorem State.advance_phase (s : State) (n : Nat) : (s.advance n).phase = s.phase := rfl
@[simp] theorem State.advance_cmd (s : State) (n : Nat) : (s.advance n).cmd = s.cmd := rfl
@[simp] theorem State.advance_inLen (s : State) (n : Nat) : (s.advance n).inLen = s.inLen := rfl
@[simp] theorem State.advance_tag (s : State) (n : Nat) : (s.advance n).tag = s.tag := rfl
@[simp] theorem State.advance_err (s : State) (n : Nat) : (s.advance n).err = s.err := rfl
@[simp] theorem State.advance_errPos (s : State) (n : Nat) : (s.advance n).errPos = s.errPos := rfl
@[simp] theorem State.advance_outLen (s : State) (n : Nat) : (s.advance n).outLen = s.outLen := rfl
@[simp] theorem State.advance_idx (s : State) (n : Nat) : (s.advance n).idx = s.idx + n := rfl
@[simp] theorem State.advance_olen (s : State) (n : Nat) : (s.advance n).olen = s.olen := rfl
@[simp] theorem State.advance_encNum (s : State) (n : Nat) : (s.advance n).encNum = s.encNum := rfl
@[simp] theorem State.advance_decCap (s : State) (n : Nat) : (s.advance n).decCap = s.decCap := rfl
@[simp] theorem State.advance_decNum (s : State) (n : Nat) : (s.advance n).decNum = s.decNum := rfl
@[simp] theorem State.advance_clsB (s : State) (n : Nat) : (s.advance n).clsB = s.clsB := rfl
@[simp] theorem State.advance_clsE (s : State) (n : Nat) : (s.advance n).clsE = s.clsE := rfl
@[simp] theorem State.advance_clsSeen (s : State) (n : Nat) : (s.advance n).clsSeen = s.clsSeen := rfl
@[simp] theorem State.advance_inBuf (s : State) (n : Nat) : (s.advance n).inBuf = s.inBuf := rfl
@[simp] theorem State.advance_obuf (s : State) (n : Nat) : (s.advance n).obuf = s.obuf := rfl
@[simp] theorem State.advance_cfg (s : State) (n : Nat) : (s.advance n).cfg = s.cfg := rfl
@[simp] theorem State.advance_pending (s : State) (n : Nat) : (s.advance n).pending = s.pending := rfl
@[simp] theorem State.advance_readData (s : State) (n : Nat) : (s.advance n).readData = s.readData := rfl
@[simp] theorem State.advance_freeReads (s : State) (n : Nat) : (s.advance n).freeReads = s.freeReads := rfl

@[simp] theorem State.emit_phase (s : State) (v : List Sym) : (s.emit v).phase = s.phase := rfl
@[simp] theorem State.emit_cmd (s : State) (v : List Sym) : (s.emit v).cmd = s.cmd := rfl
@[simp] theorem State.emit_inLen (s : State) (v : List Sym) : (s.emit v).inLen = s.inLen := rfl
@[simp] theorem State.emit_tag (s : State) (v : List Sym) : (s.emit v).tag = s.tag := rfl
@[simp] theorem State.emit_err (s : State) (v : List Sym) : (s.emit v).err = s.err := rfl
@[simp] theorem State.emit_errPos (s : State) (v : List Sym) : (s.emit v).errPos = s.errPos := rfl
@[simp] theorem State.emit_outLen (s : State) (v : List Sym) : (s.emit v).outLen = s.outLen := rfl
@[simp] theorem State.emit_idx (s : State) (v : List Sym) : (s.emit v).idx = s.idx := rfl
@[simp] theorem State.emit_olen (s : State) (v : List Sym) : (s.emit v).olen = s.olen + v.length := rfl
@[simp] theorem State.emit_encNum (s : State) (v : List Sym) : (s.emit v).encNum = s.encNum := rfl
@[simp] theorem State.emit_decCap (s : State) (v : List Sym) : (s.emit v).decCap = s.decCap := rfl
@[simp] theorem State.emit_decNum (s : State) (v : List Sym) : (s.emit v).decNum = s.decNum := rfl
@[simp] theorem State.emit_clsB (s : State) (v : List Sym) : (s.emit v).clsB = s.clsB := rfl
@[simp] theorem State.emit_clsE (s : State) (v : List Sym) : (s.emit v).clsE = s.clsE := rfl
@[simp] theorem State.emit_clsSeen (s : State) (v : List Sym) : (s.emit v).clsSeen = s.clsSeen := rfl
@[simp] theorem State.emit_inBuf (s : State) (v : List Sym) : (s.emit v).inBuf = s.inBuf := rfl
@[simp] theorem State.emit_obuf (s : State) (v : List Sym) : (s.emit v).obuf = s.obuf.writeList s.olen v := rfl
@[simp] theorem State.emit_cfg (s : State) (v : List Sym) : (s.emit v).cfg = s.cfg := rfl
@[simp] theorem State.emit_pending (s : State) (v : List Sym) : (s.emit v).pending = s.pending := rfl
@[simp] theorem State.emit_readData (s : State) (v : List Sym) : (s.emit v).readData = s.readData := rfl
@[simp] theorem State.emit_freeReads (s : State) (v : List Sym) : (s.emit v).freeReads = s.freeReads := rfl

@[simp] theorem State.raise_phase (s : State) (k : ErrKind) (p : Nat) : (s.raise k p).phase = .done := rfl
@[simp] theorem State.raise_cmd (s : State) (k : ErrKind) (p : Nat) : (s.raise k p).cmd = s.cmd := rfl
@[simp] theorem State.raise_inLen (s : State) (k : ErrKind) (p : Nat) : (s.raise k p).inLen = s.inLen := rfl
@[simp] theorem State.raise_tag (s : State) (k : ErrKind) (p : Nat) : (s.raise k p).tag = s.tag := rfl
@[simp] theorem State.raise_err (s : State) (k : ErrKind) (p : Nat) : (s.raise k p).err = some k := rfl
@[simp] theorem State.raise_errPos (s : State) (k : ErrKind) (p : Nat) : (s.raise k p).errPos = p := rfl
@[simp] theorem State.raise_outLen (s : State) (k : ErrKind) (p : Nat) : (s.raise k p).outLen = 0 := rfl
@[simp] theorem State.raise_idx (s : State) (k : ErrKind) (p : Nat) : (s.raise k p).idx = s.idx := rfl
@[simp] theorem State.raise_olen (s : State) (k : ErrKind) (p : Nat) : (s.raise k p).olen = s.olen := rfl
@[simp] theorem State.raise_encNum (s : State) (k : ErrKind) (p : Nat) : (s.raise k p).encNum = s.encNum := rfl
@[simp] theorem State.raise_decCap (s : State) (k : ErrKind) (p : Nat) : (s.raise k p).decCap = s.decCap := rfl
@[simp] theorem State.raise_decNum (s : State) (k : ErrKind) (p : Nat) : (s.raise k p).decNum = s.decNum := rfl
@[simp] theorem State.raise_clsB (s : State) (k : ErrKind) (p : Nat) : (s.raise k p).clsB = s.clsB := rfl
@[simp] theorem State.raise_clsE (s : State) (k : ErrKind) (p : Nat) : (s.raise k p).clsE = s.clsE := rfl
@[simp] theorem State.raise_clsSeen (s : State) (k : ErrKind) (p : Nat) : (s.raise k p).clsSeen = s.clsSeen := rfl
@[simp] theorem State.raise_inBuf (s : State) (k : ErrKind) (p : Nat) : (s.raise k p).inBuf = s.inBuf := rfl
@[simp] theorem State.raise_obuf (s : State) (k : ErrKind) (p : Nat) : (s.raise k p).obuf = s.obuf := rfl
@[simp] theorem State.raise_cfg (s : State) (k : ErrKind) (p : Nat) : (s.raise k p).cfg = s.cfg := rfl
@[simp] theorem State.raise_pending (s : State) (k : ErrKind) (p : Nat) : (s.raise k p).pending = s.pending := rfl
@[simp] theorem State.raise_readData (s : State) (k : ErrKind) (p : Nat) : (s.raise k p).readData = s.readData := rfl
@[simp] theorem State.raise_freeReads (s : State) (k : ErrKind) (p : Nat) : (s.raise k p).freeReads = s.freeReads := rfl

@[simp] theorem State.finish_phase (s : State) : s.finish.phase = .done := rfl
@[simp] theorem State.finish_cmd (s : State) : s.finish.cmd = s.cmd := rfl
@[simp] theorem State.finish_inLen (s : State) : s.finish.inLen = s.inLen := rfl
@[simp] theorem State.finish_tag (s : State) : s.finish.tag = s.tag := rfl
@[simp] theorem State.finish_err (s : State) : s.finish.err = s.err := rfl
@[simp] theorem State.finish_errPos (s : State) : s.finish.errPos = s.errPos := rfl
@[simp] theorem State.finish_outLen (s : State) : s.finish.outLen = s.olen := rfl
@[simp] theorem State.finish_idx (s : State) : s.finish.idx = s.idx := rfl
@[simp] theorem State.finish_olen (s : State) : s.finish.olen = s.olen := rfl
@[simp] theorem State.finish_encNum (s : State) : s.finish.encNum = s.encNum := rfl
@[simp] theorem State.finish_decCap (s : State) : s.finish.decCap = s.decCap := rfl
@[simp] theorem State.finish_decNum (s : State) : s.finish.decNum = s.decNum := rfl
@[simp] theorem State.finish_clsB (s : State) : s.finish.clsB = s.clsB := rfl
@[simp] theorem State.finish_clsE (s : State) : s.finish.clsE = s.clsE := rfl
@[simp] theorem State.finish_clsSeen (s : State) : s.finish.clsSeen = s.clsSeen := rfl
@[simp] theorem State.finish_inBuf (s : State) : s.finish.inBuf = s.inBuf := rfl
@[simp] theorem State.finish_obuf (s : State) : s.finish.obuf = s.obuf := rfl
@[simp] theorem State.finish_cfg (s : State) : s.finish.cfg = s.cfg := rfl
@[simp] theorem State.finish_pending (s : State) : s.finish.pending = s.pending := rfl
@[simp] theorem State.finish_readData (s : State) : s.finish.readData = s.readData := rfl
@[simp] theorem State.finish_freeReads (s : State) : s.finish.freeReads = s.freeReads := rfl

@[simp] theorem State.handOver_phase (s : State) (p : Phase) : (s.handOver p).phase = p := rfl
@[simp] theorem State.handOver_cmd (s : State) (p : Phase) : (s.handOver p).cmd = s.cmd := rfl
@[simp] theorem State.handOver_inLen (s : State) (p : Phase) : (s.handOver p).inLen = s.inLen := rfl
@[simp] theorem State.handOver_tag (s : State) (p : Phase) : (s.handOver p).tag = s.tag := rfl
@[simp] theorem State.handOver_err (s : State) (p : Phase) : (s.handOver p).err = s.err := rfl
@[simp] theorem State.handOver_errPos (s : State) (p : Phase) : (s.handOver p).errPos = s.errPos := rfl
@[simp] theorem State.handOver_outLen (s : State) (p : Phase) : (s.handOver p).outLen = s.outLen := rfl
@[simp] theorem State.handOver_idx (s : State) (p : Phase) : (s.handOver p).idx = 0 := rfl
@[simp] theorem State.handOver_olen (s : State) (p : Phase) : (s.handOver p).olen = s.olen := rfl
@[simp] theorem State.handOver_encNum (s : State) (p : Phase) : (s.handOver p).encNum = s.encNum := rfl
@[simp] theorem State.handOver_decCap (s : State) (p : Phase) : (s.handOver p).decCap = s.decCap := rfl
@[simp] theorem State.handOver_decNum (s : State) (p : Phase) : (s.handOver p).decNum = s.decNum := rfl
@[simp] theorem State.handOver_clsB (s : State) (p : Phase) : (s.handOver p).clsB = s.clsB := rfl
@[simp] theorem State.handOver_clsE (s : State) (p : Phase) : (s.handOver p).clsE = s.clsE := rfl
@[simp] theorem State.handOver_clsSeen (s : State) (p : Phase) : (s.handOver p).clsSeen = s.clsSeen := rfl
@[simp] theorem State.handOver_inBuf (s : State) (p : Phase) : (s.handOver p).inBuf = s.inBuf := rfl
@[simp] theorem State.handOver_obuf (s : State) (p : Phase) : (s.handOver p).obuf = s.obuf := rfl
@[simp] theorem State.handOver_cfg (s : State) (p : Phase) : (s.handOver p).cfg = s.cfg := rfl
@[simp] theorem State.handOver_pending (s : State) (p : Phase) : (s.handOver p).pending = s.pending := rfl
@[simp] theorem State.handOver_readData (s : State) (p : Phase) : (s.handOver p).readData = s.readData := rfl
@[simp] theorem State.handOver_freeReads (s : State) (p : Phase) : (s.handOver p).freeReads = s.freeReads := rfl

@[simp] theorem State.returns_phase (s : State) (v : Nat) : (s.returns v).phase = s.phase := rfl
@[simp] theorem State.returns_cmd (s : State) (v : Nat) : (s.returns v).cmd = s.cmd := rfl
@[simp] theorem State.returns_inLen (s : State) (v : Nat) : (s.returns v).inLen = s.inLen := rfl
@[simp] theorem State.returns_tag (s : State) (v : Nat) : (s.returns v).tag = s.tag := rfl
@[simp] theorem State.returns_err (s : State) (v : Nat) : (s.returns v).err = s.err := rfl
@[simp] theorem State.returns_errPos (s : State) (v : Nat) : (s.returns v).errPos = s.errPos := rfl
@[simp] theorem State.returns_outLen (s : State) (v : Nat) : (s.returns v).outLen = s.outLen := rfl
@[simp] theorem State.returns_idx (s : State) (v : Nat) : (s.returns v).idx = s.idx := rfl
@[simp] theorem State.returns_olen (s : State) (v : Nat) : (s.returns v).olen = s.olen := rfl
@[simp] theorem State.returns_encNum (s : State) (v : Nat) : (s.returns v).encNum = s.encNum := rfl
@[simp] theorem State.returns_decCap (s : State) (v : Nat) : (s.returns v).decCap = s.decCap := rfl
@[simp] theorem State.returns_decNum (s : State) (v : Nat) : (s.returns v).decNum = s.decNum := rfl
@[simp] theorem State.returns_clsB (s : State) (v : Nat) : (s.returns v).clsB = s.clsB := rfl
@[simp] theorem State.returns_clsE (s : State) (v : Nat) : (s.returns v).clsE = s.clsE := rfl
@[simp] theorem State.returns_clsSeen (s : State) (v : Nat) : (s.returns v).clsSeen = s.clsSeen := rfl
@[simp] theorem State.returns_inBuf (s : State) (v : Nat) : (s.returns v).inBuf = s.inBuf := rfl
@[simp] theorem State.returns_obuf (s : State) (v : Nat) : (s.returns v).obuf = s.obuf := rfl
@[simp] theorem State.returns_cfg (s : State) (v : Nat) : (s.returns v).cfg = s.cfg := rfl
@[simp] theorem State.returns_pending (s : State) (v : Nat) : (s.returns v).pending = s.pending := rfl
@[simp] theorem State.returns_readData (s : State) (v : Nat) : (s.returns v).readData = v := rfl
@[simp] theorem State.returns_freeReads (s : State) (v : Nat) : (s.returns v).freeReads = s.freeReads := rfl

@[simp] theorem State.startInit_phase (s : State) : s.startInit.phase = s.phase := rfl
@[simp] theorem State.startInit_cmd (s : State) : s.startInit.cmd = s.cmd := rfl
@[simp] theorem State.startInit_inLen (s : State) : s.startInit.inLen = s.inLen := rfl
@[simp] theorem State.startInit_tag (s : State) : s.startInit.tag = none := rfl
@[simp] theorem State.startInit_err (s : State) : s.startInit.err = none := rfl
@[simp] theorem State.startInit_errPos (s : State) : s.startInit.errPos = 0 := rfl
@[simp] theorem State.startInit_outLen (s : State) : s.startInit.outLen = 0 := rfl
@[simp] theorem State.startInit_idx (s : State) : s.startInit.idx = 0 := rfl
@[simp] theorem State.startInit_olen (s : State) : s.startInit.olen = 0 := rfl
@[simp] theorem State.startInit_encNum (s : State) : s.startInit.encNum = false := rfl
@[simp] theorem State.startInit_decCap (s : State) : s.startInit.decCap = false := rfl
@[simp] theorem State.startInit_decNum (s : State) : s.startInit.decNum = false := rfl
@[simp] theorem State.startInit_clsB (s : State) : s.startInit.clsB = true := rfl
@[simp] theorem State.startInit_clsE (s : State) : s.startInit.clsE = true := rfl
@[simp] theorem State.startInit_clsSeen (s : State) : s.startInit.clsSeen = false := rfl
@[simp] theorem State.startInit_inBuf (s : State) : s.startInit.inBuf = s.inBuf := rfl
@[simp] theorem State.startInit_obuf (s : State) : s.startInit.obuf = s.obuf := rfl
@[simp] theorem State.startInit_cfg (s : State) : s.startInit.cfg = s.cfg := rfl
@[simp] theorem State.startInit_pending (s : State) : s.startInit.pending = s.pending := rfl
@[simp] theorem State.startInit_readData (s : State) : s.startInit.readData = s.readData := rfl
@[simp] theorem State.startInit_freeReads (s : State) : s.startInit.freeReads = s.freeReads := rfl

@[simp] theorem State.resetRegs_phase (s : State) : s.resetRegs.phase = .idle := rfl
@[simp] theorem State.resetRegs_cmd (s : State) : s.resetRegs.cmd = .translate := rfl
@[simp] theorem State.resetRegs_inLen (s : State) : s.resetRegs.inLen = 0 := rfl
@[simp] theorem State.resetRegs_tag (s : State) : s.resetRegs.tag = none := rfl
@[simp] theorem State.resetRegs_err (s : State) : s.resetRegs.err = none := rfl
@[simp] theorem State.resetRegs_errPos (s : State) : s.resetRegs.errPos = 0 := rfl
@[simp] theorem State.resetRegs_outLen (s : State) : s.resetRegs.outLen = 0 := rfl
@[simp] theorem State.resetRegs_idx (s : State) : s.resetRegs.idx = 0 := rfl
@[simp] theorem State.resetRegs_olen (s : State) : s.resetRegs.olen = 0 := rfl
@[simp] theorem State.resetRegs_encNum (s : State) : s.resetRegs.encNum = false := rfl
@[simp] theorem State.resetRegs_decCap (s : State) : s.resetRegs.decCap = false := rfl
@[simp] theorem State.resetRegs_decNum (s : State) : s.resetRegs.decNum = false := rfl
@[simp] theorem State.resetRegs_clsB (s : State) : s.resetRegs.clsB = true := rfl
@[simp] theorem State.resetRegs_clsE (s : State) : s.resetRegs.clsE = true := rfl
@[simp] theorem State.resetRegs_clsSeen (s : State) : s.resetRegs.clsSeen = false := rfl
@[simp] theorem State.resetRegs_inBuf (s : State) : s.resetRegs.inBuf = s.inBuf := rfl
@[simp] theorem State.resetRegs_obuf (s : State) : s.resetRegs.obuf = s.obuf := rfl
@[simp] theorem State.resetRegs_cfg (s : State) : s.resetRegs.cfg = s.cfg := rfl
@[simp] theorem State.resetRegs_pending (s : State) : s.resetRegs.pending = s.pending := rfl
@[simp] theorem State.resetRegs_readData (s : State) : s.resetRegs.readData = s.readData := rfl
@[simp] theorem State.resetRegs_freeReads (s : State) : s.resetRegs.freeReads = s.freeReads := rfl

end Sys2Proof.Machine
end

