-- ==== Sys2Proof/Laws/Ops.lean ====
section
/-! SUPPORT. For each shared operation, once, everything it can do. -/

namespace Sys2Proof.Machine

theorem cellStr_length (b : Cell) : (cellStr b).length = 6 := rfl

/-- What `Emit` stages. -/
theorem State.stages_emit (s : State) (v : List Sym) : Stages s (s.emit v) v :=
  ⟨rfl, Memory.readList_writeList _ _ _, fun a h => Memory.read_writeList_outside _ _ a _ h⟩

/-- Two successive `Emit`s are one. -/
theorem State.emit_emit (s : State) (v w : List Sym) : (s.emit v).emit w = s.emit (v ++ w) := by
  simp [State.emit, Memory.writeList_append, Nat.add_assoc]

theorem State.memRead_length (s : State) (i n : Nat) : (s.memRead i n).length = n := by
  induction n generalizing i with
  | zero => rfl
  | succ n ih => simp [State.memRead, ih]

theorem State.memRead_congr (s t : State) (h : t.inBuf = s.inBuf) (i n : Nat) : t.memRead i n = s.memRead i n := by
  induction n generalizing i with
  | zero => rfl
  | succ n ih => rw [State.memRead, State.memRead, ih, State.inAt, State.inAt, h]

theorem State.memRead_append (s : State) (i n k : Nat) :
    s.memRead i (n + k) = s.memRead i n ++ s.memRead (i + n) k := by
  induction n generalizing i with
  | zero => simp [State.memRead]
  | succ n ih =>
    rw [Nat.succ_add, State.memRead, State.memRead, ih, List.cons_append]
    rw [show i + 1 + n = i + (n + 1) by omega]

theorem State.input_length (s : State) : s.input.length = s.inLen := s.memRead_length 0 s.inLen

theorem State.window_length (s : State) (n : Nat) : (s.window n).length = min n (s.inLen - s.idx) :=
  s.memRead_length _ _

/-- What `fetchAt` can find. -/
theorem State.fetchAt_cases (s : State) (f : Format) (n : Nat) :
    (s.inLen < s.idx ∧ s.fetchAt f n = .stuck .idxPastInLen) ∨
    (s.idx ≤ s.inLen ∧ ∃ i, decode s.cfg f (s.window n) = .ok i ∧ s.fetchAt f n = .instr i) ∨
    (s.idx ≤ s.inLen ∧ ∃ e, decode s.cfg f (s.window n) = .error e ∧ s.fetchAt f n = .stuck .memReadPastInLen) := by
  unfold State.fetchAt
  by_cases h : s.idx ≤ s.inLen
  · cases hd : decode s.cfg f (s.window n) with
    | ok i => exact .inr (.inl ⟨h, i, rfl, by simp [h]⟩)
    | error e => exact .inr (.inr ⟨h, e, rfl, by simp [h]⟩)
  · exact .inl ⟨by omega, by simp [h]⟩

/-- What one turn of the sequencer can be. -/
theorem State.sequence_cases (s : State) (t : State) (h : s.sequence = .next t) :
    ((s.phase = .idle ∨ s.phase = .done) ∧ t = s) ∨ (∃ i, s.fetch = .instr i ∧ exec i s = .next t) := by
  unfold State.sequence at h
  cases hf : s.fetch with
  | noStep =>
    rw [hf] at h
    refine .inl ⟨?_, by simpa using h.symm⟩
    cases hp : s.phase <;> simp [State.fetch, hp] at hf ⊢
    all_goals unfold State.fetchAt at hf; split at hf <;> try split at hf
    all_goals simp at hf
  | instr i => rw [hf] at h; exact .inr ⟨i, rfl, h⟩
  | stuck f => rw [hf] at h; simp at h

/-- What the command instruction of register `CMD` can do: it selects the phase at START, it ends CLASSIFY, or nothing. -/
theorem runCommand_cases (s t : State) (h : runCommand s = .next t) :
    (s.phase.busy = false ∧ t = { s with phase := match s.cmd with
      | .translate | .classify => .classify
      | .encode => .encode
      | .decode => .preflight }) ∨
    (s.phase = .classify ∧ s.cmd = .classify ∧ t = s.finish) ∨
    (s.phase = .classify ∧ s.cmd = .translate ∧ s.tag = some .braille ∧ t = s.handOver .preflight) ∨
    (s.phase = .classify ∧ s.cmd = .translate ∧ s.tag = some .english ∧ t = s.handOver .encode) ∨
    (s.phase = .classify ∧ s.cmd = .translate ∧ s.tag = some .other ∧ t = s.raise .unclassifiableInput s.inLen) ∨
    (s.phase = .classify ∧ s.cmd = .translate ∧ s.tag = none ∧ t = s) ∨
    ((s.phase = .encode ∨ s.phase = .preflight ∨ s.phase = .decode) ∧ t = s) := by
  cases hc : s.cmd <;> cases hp : s.phase <;>
    simp only [runCommand, execCmdTranslate, execCmdEncode, execCmdDecode, execCmdClassify, hc, hp] at h <;>
    simp_all [Phase.busy]
  cases ht : s.tag with
  | none => simp_all
  | some g => cases g <;> simp_all

/-- What one step can be. -/
theorem step_cases (s t : State) (h : step s = .next t) :
    (s.sequence = .next t) ∨
    (∃ rest, s.pending = .run :: rest ∧ State.sequence { s with pending := rest } = .next t) ∨
    (∃ op rest, s.pending = .host op :: rest ∧ hostOperation op { s with pending := rest } = .next t) ∨
    (∃ rest, s.pending = .poll :: rest ∧ s.phase = .done ∧
      t = State.returns { s with pending := rest } s.statusView.toNat) ∨
    (∃ rest, s.pending = .resetInput :: rest ∧ t = State.resetRegs { s with pending := rest }) := by
  unfold step takeTurn at h
  cases hp : s.pending with
  | nil => rw [hp] at h; exact .inl h
  | cons turn rest =>
    rw [hp] at h
    cases turn with
    | run => exact .inr (.inl ⟨rest, rfl, h⟩)
    | host op => exact .inr (.inr (.inl ⟨op, rest, rfl, h⟩))
    | poll =>
      simp only at h
      split at h
      · exact .inr (.inr (.inr (.inl ⟨rest, rfl, ‹_›, by simpa using h.symm⟩)))
      · exact .inl h
    | resetInput => exact .inr (.inr (.inr (.inr ⟨rest, rfl, by simpa using h.symm⟩)))

/-- In the sequencer's turn a step is the sequencer's. -/
theorem step_of_sequencerTurn (s u : State) (h : s.SequencerTurn u) : step s = u.sequence := by
  cases h with
  | free h => simp [step, takeTurn, h]
  | run rest h => simp [step, takeTurn, h]
  | poll rest h hd => simp [step, takeTurn, h, hd]

/-- The state in which the sequencer takes its turn differs from the state before in `pending` at most. -/
theorem State.SequencerTurn.eq_with_pending (s u : State) (h : s.SequencerTurn u) : u = { s with pending := u.pending } := by
  cases h <;> rfl

/-- What one host operation can be: a CTRL write executes its instruction, every other write or read is a next state. -/
theorem hostOperation_cases (op : HostOp) (s t : State) (h : hostOperation op s = .next t) :
    (∃ v, op = .writeReg 2 v ∧ exec (decodeCtrl (BitVec.ofNat 2 v)) s = .next t) ∨
    (∃ n v, op = .writeReg n v ∧ n ≠ 2 ∧ t = s.writeReg n v) ∨
    (∃ n, op = .readReg n ∧ t = s.returns (s.regValue n)) ∨
    (∃ w i, op = .readWindow w i ∧ t = s.readWindow w i) ∨
    (∃ w i v, op = .writeWindow w i v ∧ t = s.writeWindow w i v) := by
  cases op with
  | readReg n => exact .inr (.inr (.inl ⟨n, rfl, by simpa [hostOperation] using h.symm⟩))
  | readWindow w i => exact .inr (.inr (.inr (.inl ⟨w, i, rfl, by simpa [hostOperation] using h.symm⟩)))
  | writeWindow w i v => exact .inr (.inr (.inr (.inr ⟨w, i, v, rfl, by simpa [hostOperation] using h.symm⟩)))
  | writeReg n v =>
    by_cases hn : n = 2
    · subst hn
      exact .inl ⟨v, rfl, by simpa [hostOperation] using h⟩
    · exact .inr (.inl ⟨n, v, rfl, hn, by simpa [hostOperation, hn] using h.symm⟩)

/-- What a write of a register other than CTRL can do. -/
theorem State.writeReg_cases (s : State) (n v : Nat) :
    s.writeReg n v = s ∨
    (s.phase.busy = false ∧ n = 0 ∧ s.writeReg n v = { s with cmd := Cmd.ofCode (BitVec.ofNat 2 v) }) ∨
    (s.phase.busy = false ∧ n = 1 ∧ v ≤ s.cfg.inCap ∧ s.writeReg n v = { s with inLen := v }) := by
  unfold State.writeReg
  cases hb : s.phase.busy <;> simp only [Bool.false_eq_true, if_false, if_true]
  · split_ifs <;> simp_all
  · exact .inl trivial

/-- What a write of a window can do. -/
theorem State.writeWindow_cases (s : State) (w i v : Nat) :
    s.writeWindow w i v = s ∨
    (s.phase.busy = false ∧ w = 16 ∧ i < s.cfg.inCap ∧
      s.writeWindow w i v = { s with inBuf := s.inBuf.write i (BitVec.ofNat 21 v) }) := by
  unfold State.writeWindow
  cases hb : s.phase.busy <;> simp only [Bool.false_eq_true, if_false, if_true]
  · split_ifs <;> simp_all
  · exact .inl trivial

/-- A read of a window changes the two fields of the read port at most. -/
theorem State.readWindow_frame (s : State) (w i : Nat) :
    s.readWindow w i =
      { s with readData := (s.readWindow w i).readData, freeReads := (s.readWindow w i).freeReads } := by
  unfold State.readWindow State.readOut State.returns
  split_ifs <;> try rfl
  all_goals split <;> rfl

/-- How a run unfolds. -/
theorem runSteps_zero (s : State) : runSteps 0 s = .next s := rfl

theorem core_run_succ (M : Host.Core) (n : Nat) (s : M.State) :
    M.run (n + 1) s = match M.step s with
      | .next u => M.run n u
      | .fault r => .fault r
      | .refused r => .refused r := rfl

theorem core_run_succ_inv (M : Host.Core) (n : Nat) (s t : M.State) (h : M.run (n + 1) s = .next t) :
    ∃ u, M.step s = .next u ∧ M.run n u = .next t := by
  rw [core_run_succ] at h
  cases hs : M.step s with
  | next u => exact ⟨u, rfl, by simpa [hs] using h⟩
  | fault r => simp [hs] at h
  | refused r => simp [hs] at h

theorem runSteps_succ (n : Nat) (s t : State) (h : step s = .next t) : runSteps (n + 1) s = runSteps n t := by
  have hc : Sys2Proof.core.step s = .next t := h
  exact (core_run_succ Sys2Proof.core n s).trans (by rw [hc]; rfl)

/-- A run of `n + 1` steps that answers a state begins with a step that does. -/
theorem runSteps_succ_inv (n : Nat) (s t : State) (h : runSteps (n + 1) s = .next t) :
    ∃ u, step s = .next u ∧ runSteps n u = .next t := core_run_succ_inv Sys2Proof.core n s t h

theorem runSteps_add (n k : Nat) (s t : State) (h : runSteps n s = .next t) :
    runSteps (n + k) s = runSteps k t := by
  induction n generalizing s with
  | zero =>
    cases h
    rw [Nat.zero_add]
  | succ n ih =>
    obtain ⟨u, hs, hu⟩ := runSteps_succ_inv n s t h
    rw [Nat.succ_add, runSteps_succ (n + k) s u hs]
    exact ih u hu

end Sys2Proof.Machine
end

