-- ==== Sys2Proof/Laws/PerInstr.lean ====
section
/-! SUPPORT. Facts about each instruction as syntax, one lemma per constructor. -/

namespace Sys2Proof.Laws.FormatLength

open Sys2Proof Sys2Proof.Machine

/-- The encoding of a well-formed instruction has as many symbols as its format: one for CMD and CTRL, one or the end of
the input for CHAR, none for the preflight, six or the end of the input for CELL (30_encoding.md R70, R84). -/
def Statement (i : Instr) : Prop :=
  ∀ cfg : Config, i.wf cfg = true →
    match (encode cfg i).1 with
    | .cmd | .ctrl => (encode cfg i).2.length = 1
    | .cls | .enc => (encode cfg i).2.length ≤ 1
    | .pre => (encode cfg i).2.length = 0
    | .dec _ => (encode cfg i).2.length = 0 ∨ (encode cfg i).2.length = 6

theorem cmdTranslate : Statement .cmdTranslate := by simp [Statement, encode]
theorem cmdEncode : Statement .cmdEncode := by simp [Statement, encode]
theorem cmdDecode : Statement .cmdDecode := by simp [Statement, encode]
theorem cmdClassify : Statement .cmdClassify := by simp [Statement, encode]
theorem ctrlNone : Statement .ctrlNone := by simp [Statement, encode]
theorem ctrlStart : Statement .ctrlStart := by simp [Statement, encode]
theorem ctrlReset (b : Bool) : Statement (.ctrlReset b) := by simp [Statement, encode]
theorem clsO : Statement .clsO := by simp [Statement, encode]
theorem clsDot : Statement .clsDot := by simp [Statement, encode]
theorem clsEng (c : Sym) : Statement (.clsEng c) := by simp [Statement, encode]
theorem clsOther (c : Sym) : Statement (.clsOther c) := by simp [Statement, encode]
theorem clsEnd : Statement .clsEnd := by simp [Statement, encode]
theorem encUpper (i : Fin 26) : Statement (.encUpper i) := by simp [Statement, encode]
theorem encLower (i : Fin 26) : Statement (.encLower i) := by simp [Statement, encode]
theorem encDigit (d : Fin 10) : Statement (.encDigit d) := by simp [Statement, encode]
theorem encSpace : Statement .encSpace := by simp [Statement, encode]
theorem encOther (c : Sym) : Statement (.encOther c) := by simp [Statement, encode]
theorem encEnd : Statement .encEnd := by simp [Statement, encode]
theorem decPre : Statement .decPre := by simp [Statement, encode]
theorem decCap (m : Bool) : Statement (.decCap m) := by simp [Statement, encode, cellStr]
theorem decNum (m : Bool) : Statement (.decNum m) := by simp [Statement, encode, cellStr]
theorem decSpace (m : Bool) : Statement (.decSpace m) := by simp [Statement, encode, cellStr]
theorem decDigit (d : Fin 10) : Statement (.decDigit d) := by simp [Statement, encode, cellStr]
theorem decLetter (j : Fin 26) : Statement (.decLetter j) := by simp [Statement, encode, cellStr]
theorem decUnknown (m : Bool) (g : List Sym) : Statement (.decUnknown m g) := by
  intro cfg h
  simp only [Instr.wf, Bool.and_eq_true, beq_iff_eq] at h
  simp [encode, h.1]
theorem decEnd : Statement .decEnd := by simp [Statement, encode]

end Sys2Proof.Laws.FormatLength
end

