-- ==== Sys2Proof/Tests/Slice0.lean ====
section
/-! SUPPORT. Tests of the model: what WellFormed refuses, one word or more of every instruction written out from
30_encoding.md, at most two single steps per instruction, and for each statement with hypotheses a state and operands
that meet them. Expected results are hand calculations from the rules, or examples the rules print. -/

namespace Sys2Proof.Tests

open Sys2Proof Sys2Proof.Machine

/-! ### Helpers -/

/-- Legal parameters with U+00E9 a letter and U+0661 a digit. -/
def cfgT : Config := ⟨20, defaultLetterLut, [0xE9], [0x661]⟩

/-- A block in phase `p` under command `c`, with the input `ws` and IDX at `i`. -/
def small (p : Phase) (c : Cmd) (ws : List Sym) (i : Nat) : State :=
  { State.reset with
    phase := p, cmd := c, inBuf := Memory.writeList [] 0 ws, inLen := ws.length, idx := i, cfg := cfgT }

def nextHas (o : Host.Outcome State Fault Refusal) (p : State → Bool) : Bool :=
  match o with
  | .next t => p t
  | .fault _ => false
  | .refused _ => false

def faultIs (o : Host.Outcome State Fault Refusal) (f : Fault) : Bool :=
  match o with
  | .next _ => false
  | .fault g => g == f
  | .refused _ => false

/-- `OBUF[0..n-1]` of the state holds exactly the string `v`. -/
def holds (t : State) (v : List Sym) : Bool := t.olen == v.length && t.obuf.readList 0 v.length == v.map some

/-- The decoder reads the symbols `ws` in the format `f` as `i`. -/
def reads (f : Format) (ws : List Sym) (i : Instr) : Bool :=
  match decode cfgT f ws with
  | .ok j => j == i
  | .error _ => false

/-! ### What is not well formed -/

theorem test_wf_clsEng_refuses_O : Instr.wf cfgT (.clsEng 0x4F) = false := by decide
theorem test_wf_clsEng_refuses_punctuation : Instr.wf cfgT (.clsEng 0x21) = false := by decide
theorem test_wf_clsOther_refuses_space : Instr.wf cfgT (.clsOther 0x20) = false := by decide
theorem test_wf_clsOther_refuses_dot : Instr.wf cfgT (.clsOther 0x2E) = false := by decide
theorem test_wf_encOther_refuses_digit : Instr.wf cfgT (.encOther 0x39) = false := by decide
theorem test_wf_decUnknown_refuses_five_symbols :
    Instr.wf cfgT (.decUnknown false [0x4F, 0x4F, 0x4F, 0x4F, 0x4F]) = false := by decide
theorem test_wf_decUnknown_refuses_letter_cell_in_letter_mode :
    Instr.wf cfgT (.decUnknown false [0x4F, 0x2E, 0x2E, 0x2E, 0x4F, 0x2E]) = false := by decide
theorem test_wf_decUnknown_refuses_digit_cell_in_number_mode :
    Instr.wf cfgT (.decUnknown true [0x4F, 0x2E, 0x2E, 0x2E, 0x2E, 0x2E]) = false := by decide
theorem test_wf_decUnknown_refuses_control_cell :
    Instr.wf cfgT (.decUnknown true [0x2E, 0x2E, 0x2E, 0x2E, 0x2E, 0x4F]) = false := by decide
theorem test_wf_config_refuses_no_capacity : Config.valid { cfgT with inCap := 0 } = false := by decide
theorem test_wf_config_refuses_equal_letters :
    Config.lutValid { cfgT with letterLut := defaultLetterLut.set 25 0x33 } = false := by decide
theorem test_wf_config_refuses_control_cell_letter :
    Config.lutValid { cfgT with letterLut := defaultLetterLut.set 25 0x17 } = false := by decide
theorem test_wf_config_refuses_other_j :
    Config.lutValid { cfgT with letterLut := defaultLetterLut.set 9 0x3F } = false := by decide
theorem test_wf_config_accepts_default : cfgT.valid = true := by decide

/-! ### Words of every instruction, from 30_encoding.md R71 to R87 -/

theorem test_word_cmdTranslate : reads .cmd [0b00] .cmdTranslate = true := by decide
theorem test_word_cmdEncode : reads .cmd [0b01] .cmdEncode = true := by decide
theorem test_word_cmdDecode : reads .cmd [0b10] .cmdDecode = true := by decide
theorem test_word_cmdClassify : reads .cmd [0b11] .cmdClassify = true := by decide
theorem test_word_ctrlNone : reads .ctrl [0b00] .ctrlNone = true := by decide
theorem test_word_ctrlStart : reads .ctrl [0b01] .ctrlStart = true := by decide
theorem test_word_ctrlReset : reads .ctrl [0b10] (.ctrlReset false) = true := by decide
theorem test_word_ctrlReset_wins : reads .ctrl [0b11] (.ctrlReset true) = true := by decide
theorem test_word_clsO : reads .cls [0b000000000000001001111] .clsO = true := by decide
theorem test_word_clsDot : reads .cls [0b000000000000000101110] .clsDot = true := by decide
theorem test_word_clsEng_lower_o : reads .cls [0b000000000000001101111] (.clsEng 0x6F) = true := by decide
theorem test_word_clsEng_high_letter : reads .cls [0b000000000000011101001] (.clsEng 0xE9) = true := by decide
theorem test_word_clsOther : reads .cls [0b000000000000000100001] (.clsOther 0x21) = true := by decide
theorem test_word_clsOther_surrogate : reads .cls [0b000001101100000000000] (.clsOther 0xD800) = true := by decide
theorem test_word_clsEnd : reads .cls [] .clsEnd = true := by decide
theorem test_word_encUpper : reads .enc [0b000000000000001011010] (.encUpper 25) = true := by decide
theorem test_word_encLower : reads .enc [0b000000000000001100010] (.encLower 1) = true := by decide
theorem test_word_encDigit : reads .enc [0b000000000000000111001] (.encDigit 9) = true := by decide
theorem test_word_encSpace : reads .enc [0b000000000000000100000] .encSpace = true := by decide
theorem test_word_encOther : reads .enc [0b000000000000011101001] (.encOther 0xE9) = true := by decide
theorem test_word_encOther_past_z : reads .enc [0b000000000000001111011] (.encOther 0x7B) = true := by decide
theorem test_word_encEnd : reads .enc [] .encEnd = true := by decide
theorem test_word_decPre : reads .pre [] .decPre = true := by decide
theorem test_word_decCap : reads (.dec true) [0x2E, 0x2E, 0x2E, 0x2E, 0x2E, 0x4F] (.decCap true) = true := by decide
theorem test_word_decNum : reads (.dec false) [0x2E, 0x4F, 0x2E, 0x4F, 0x4F, 0x4F] (.decNum false) = true := by decide
theorem test_word_decSpace : reads (.dec true) [0x2E, 0x2E, 0x2E, 0x2E, 0x2E, 0x2E] (.decSpace true) = true := by decide
theorem test_word_decDigit : reads (.dec true) [0x2E, 0x4F, 0x4F, 0x2E, 0x2E, 0x2E] (.decDigit 9) = true := by decide
theorem test_word_decLetter : reads (.dec false) [0x2E, 0x4F, 0x4F, 0x4F, 0x2E, 0x4F] (.decLetter 22) = true := by decide
theorem test_word_decUnknown_k_in_number_mode :
    reads (.dec true) [0x4F, 0x2E, 0x2E, 0x2E, 0x4F, 0x2E]
      (.decUnknown true [0x4F, 0x2E, 0x2E, 0x2E, 0x4F, 0x2E]) = true := by decide
theorem test_word_decUnknown_no_cell :
    reads (.dec false) [0x4F, 0x2E, 0x30, 0x2E, 0x4F, 0x2E]
      (.decUnknown false [0x4F, 0x2E, 0x30, 0x2E, 0x4F, 0x2E]) = true := by decide
theorem test_word_decEnd : reads (.dec true) [] .decEnd = true := by decide
theorem test_word_five_symbols_are_no_cell :
    decode cfgT (.dec false) [0x4F, 0x4F, 0x4F, 0x4F, 0x4F] = .error .wrongLength := by decide

/-! ### Table words: the width gives the format (log 9) -/

theorem test_table_word_cell : decodeTableWord 8 0b1011100 = some (.decDigit 0) := by decide
theorem test_table_word_symbol : decodeTableWord 24 0x2E = some .clsDot := by decide
theorem test_table_word_step :
    nextHas (step (State.reset.withFetchWord 24 0x2E)) (fun t => !t.clsE && t.clsB && t.idx == 1) = true := by decide

/-! ### Single steps; the examples are those that the rules print -/

theorem test_clsO : nextHas (step (small .classify .translate [0x4F] 0))
    (fun t => t.clsSeen && t.clsB && t.clsE && t.idx == 1) = true := by decide
theorem test_clsDot : nextHas (step (small .classify .translate [0x2E] 0))
    (fun t => t.clsSeen && t.clsB && !t.clsE && t.idx == 1) = true := by decide
theorem test_clsEng : nextHas (step (small .classify .translate [0x4F, 0x70] 1))
    (fun t => t.clsSeen && !t.clsB && t.clsE && t.idx == 2) = true := by decide
theorem test_clsOther : nextHas (step (small .classify .translate [0x21] 0))
    (fun t => t.clsSeen && !t.clsB && !t.clsE && t.idx == 1) = true := by decide
theorem test_clsEnd_empty : nextHas (step (small .classify .translate [] 0))
    (fun t => t.tag == some .other && t.err == some .unclassifiableInput && t.errPos == 0 && t.statusView == 0x5D) = true := by
  decide
theorem test_clsEnd_classify : nextHas (step { small .classify .classify [0x4F] 1 with clsSeen := true })
    (fun t => t.tag == some .braille && t.err == none && t.phase == .done) = true := by decide
theorem test_encUpper : nextHas (step { small .encode .encode [0x41] 0 with encNum := true })
    (fun t => !t.encNum && t.idx == 1 && holds t
      [0x2E, 0x2E, 0x2E, 0x2E, 0x2E, 0x4F, 0x4F, 0x2E, 0x2E, 0x2E, 0x2E, 0x2E]) = true := by decide
theorem test_encLower : nextHas (step { small .encode .encode [0x61] 0 with encNum := true })
    (fun t => !t.encNum && t.idx == 1 && holds t [0x4F, 0x2E, 0x2E, 0x2E, 0x2E, 0x2E]) = true := by decide
theorem test_encDigit_first : nextHas (step (small .encode .encode [0x30] 0))
    (fun t => t.encNum && t.idx == 1 && holds t
      [0x2E, 0x4F, 0x2E, 0x4F, 0x4F, 0x4F, 0x2E, 0x4F, 0x4F, 0x4F, 0x2E, 0x2E]) = true := by decide
theorem test_encDigit_in_run : nextHas (step { small .encode .encode [0x32] 0 with encNum := true })
    (fun t => t.encNum && holds t [0x4F, 0x2E, 0x4F, 0x2E, 0x2E, 0x2E]) = true := by decide
theorem test_encSpace : nextHas (step { small .encode .encode [0x20] 0 with encNum := true })
    (fun t => !t.encNum && t.idx == 1 && holds t [0x2E, 0x2E, 0x2E, 0x2E, 0x2E, 0x2E]) = true := by decide
theorem test_encOther : nextHas (step (small .encode .encode [0x61, 0x21] 1))
    (fun t => t.err == some .unsupportedCharacter && t.errPos == 1 && t.idx == 1 && t.outLen == 0) = true := by decide
theorem test_encEnd : nextHas (step { small .encode .encode [0x61] 1 with olen := 6 })
    (fun t => t.outLen == 6 && t.phase == .done && t.err == none) = true := by decide
theorem test_decPre_truncated : nextHas (step (small .preflight .decode [0x2E, 0x4F, 0x2E, 0x4F, 0x4F, 0x2E, 0x2E] 0))
    (fun t => t.err == some .truncatedCell && t.errPos == 6 && t.phase == .done) = true := by decide
theorem test_decPre_empty : nextHas (step (small .preflight .decode [] 0))
    (fun t => t.err == none && t.phase == .decode) = true := by decide
theorem test_decCap : nextHas (step (small .decode .decode (cellStr 0x01) 0))
    (fun t => t.decCap && !t.decNum && t.idx == 6 && t.olen == 0) = true := by decide
theorem test_decCap_twice : nextHas (step { small .decode .decode (cellStr 0x01) 0 with decCap := true })
    (fun t => t.err == some .invalidSequence && t.errPos == 0 && t.decCap) = true := by decide
theorem test_decNum : nextHas (step (small .decode .decode (cellStr 0x17) 0))
    (fun t => !t.decCap && t.decNum && t.idx == 6 && t.olen == 0) = true := by decide
theorem test_decNum_after_capital : nextHas (step { small .decode .decode (cellStr 0x17) 0 with decCap := true })
    (fun t => t.err == some .invalidSequence && !t.decNum) = true := by decide
theorem test_decSpace : nextHas (step { small .decode .decode (cellStr 0x00) 0 with decNum := true })
    (fun t => !t.decNum && holds t [0x20] && t.idx == 6) = true := by decide
theorem test_decSpace_after_capital :
    nextHas (step { small .decode .decode (cellStr 0x00) 0 with decCap := true, decNum := true })
      (fun t => t.err == some .invalidSequence && t.decNum && t.olen == 0) = true := by decide
theorem test_decDigit : nextHas (step { small .decode .decode (cellStr 0x20) 0 with decNum := true })
    (fun t => t.decNum && holds t [0x31] && t.idx == 6) = true := by decide
theorem test_decDigit_after_capital :
    nextHas (step { small .decode .decode (cellStr 0x20) 0 with decCap := true, decNum := true })
      (fun t => t.err == some .invalidSequence && t.olen == 0) = true := by decide
theorem test_decLetter_upper : nextHas (step { small .decode .decode (cellStr 0x20) 0 with decCap := true })
    (fun t => !t.decCap && holds t [0x41]) = true := by decide
theorem test_decLetter_lower : nextHas (step (small .decode .decode (cellStr 0x27) 0))
    (fun t => holds t [0x7A] && t.idx == 6) = true := by decide
theorem test_decUnknown_before_capital_check :
    nextHas (step { small .decode .decode (cellStr 0x22) 0 with decCap := true, decNum := true })
      (fun t => t.err == some .unknownCell && t.errPos == 0) = true := by decide
theorem test_decUnknown_letter_mode : nextHas (step (small .decode .decode (cellStr 0x3F) 0))
    (fun t => t.err == some .unknownCell && t.idx == 0) = true := by decide
theorem test_decEnd : nextHas (step { small .decode .decode (cellStr 0x20) 6 with olen := 1 })
    (fun t => t.outLen == 1 && t.err == none && t.phase == .done) = true := by decide
theorem test_decEnd_dangling : nextHas (step { small .decode .decode (cellStr 0x01) 6 with decCap := true })
    (fun t => t.err == some .danglingCapital && t.errPos == 6 && t.outLen == 0) = true := by decide
theorem test_cmdTranslate : nextHas (exec .cmdTranslate { small .classify .translate [0x61] 1 with tag := some .english })
    (fun t => t.phase == .encode && t.idx == 0) = true := by decide
theorem test_cmdEncode : nextHas (exec .cmdEncode (small .done .encode [0x61] 1)) (fun t => t.phase == .encode) = true := by
  decide
theorem test_cmdDecode : nextHas (exec .cmdDecode (small .idle .decode [] 0)) (fun t => t.phase == .preflight) = true := by
  decide
theorem test_cmdDecode_has_no_rule_at_clsEnd :
    faultIs (exec .cmdDecode (small .classify .decode [] 0)) .noRuleForCommand = true := by decide
theorem test_cmdClassify : nextHas (exec .cmdClassify (small .classify .classify [0x61] 1))
    (fun t => t.phase == .done && t.outLen == 0) = true := by decide
theorem test_ctrlNone : nextHas (hostOperation (.writeReg 2 0) (small .done .encode [0x61] 1))
    (fun t => t.phase == .done && t.idx == 1) = true := by decide
theorem test_ctrlStart : nextHas (step (State.starting { small .done .encode [0x61] 1 with outLen := 6, encNum := true }))
    (fun t => t.phase == .encode && t.idx == 0 && t.outLen == 0 && !t.encNum) = true := by decide
theorem test_ctrlStart_ignored_while_busy :
    nextHas (step (State.starting (small .encode .encode [0x61] 1))) (fun t => t.idx == 1) = true := by decide
theorem test_ctrlReset : nextHas (hostOperation (.writeReg 2 3) (small .encode .encode [0x61] 1))
    (fun t => t.phase == .idle && t.inLen == 0 && t.idx == 0 && t.statusView == 0x00 && t.flagsView == 0x18
      && t.inBuf.read 0 == some 0x61) = true := by decide
theorem test_host_write_past_capacity : nextHas (hostOperation (.writeReg 1 21) (small .idle .encode [0x61] 0))
    (fun t => t.inLen == 1) = true := by decide
theorem test_fetch_past_the_end_is_stuck : faultIs (step (small .encode .encode [0x61] 2)) .idxPastInLen = true := by decide
theorem test_partial_cell_is_stuck : faultIs (step (small .decode .decode [0x4F] 0)) .memReadPastInLen = true := by decide

/-! ### Witnesses: states and operands that meet the hypotheses of the statements -/

theorem test_witness_DecodeOfEncodeIsTheInstruction :
    cfgT.lutValid = true ∧ Instr.wf cfgT (.decUnknown true (cellStr 0x22)) = true ∧ Instr.wf cfgT (.clsEng 0x661) = true ∧
    Instr.wf cfgT (.clsOther 0x1FFFFF) = true ∧ Instr.wf cfgT (.encOther 0x40) = true := by decide
theorem test_witness_EncodeOfDecodeIsTheWord :
    decode cfgT (.dec true) [] = .ok .decEnd ∧ decode cfgT .enc [0x5B] = .ok (.encOther 0x5B) ∧
    decode cfgT .ctrl [0b11] = .ok (.ctrlReset true) := by decide
theorem test_witness_CellStringAndPackedFormAgree :
    cellBits [0x4F, 0x2E, 0x2E, 0x2E, 0x2E, 0x2E] = some 0x20 ∧ cellBits [0x2E, 0x2E, 0x2E, 0x2E, 0x2E, 0x4F] = some 0x01 := by
  decide
theorem test_witness_NamedCellsAreDistinct : cfgT.lutValid = true := by decide
theorem test_witness_DigitTableIsTheFirstTenLetters :
    (9 : Fin 26).val = ((0 : Fin 10).val + 9) % 10 ∧ (0 : Fin 26).val = ((1 : Fin 10).val + 9) % 10 ∧
    (8 : Fin 26).val = ((9 : Fin 10).val + 9) % 10 := by decide
theorem test_witness_ReverseLetterTableInverts : cfgT.lutValid = true := by decide
theorem test_witness_ReverseDigitTableInverts : cfgT.lutValid = true := by decide
theorem test_witness_UnassignedPatternsAreThirtyFive : cfgT.lutValid = true := by decide
theorem test_witness_ClassifierClassesByPredicate :
    (0x7F : Sym).toNat < 0x80 ∧ clsClass cfgT 0x7F = .other ∧ clsClass cfgT 0x2E = .dot ∧ clsClass cfgT 0xE9 = .eng := by
  decide
theorem test_witness_OpenPredicatesAreFixedOnAscii :
    (0x7F : Sym).toNat < 0x80 ∧ 0xD800 ≤ (0xD800 : Sym).toNat ∧ (0xDFFF : Sym).toNat ≤ 0xDFFF ∧
    0x10FFFF < (0x110000 : Sym).toNat := by decide
theorem test_witness_CellDispatchFollowsTheClauses :
    [0x4F, 0x4F, 0x4F, 0x4F, 0x4F, (0x30 : Sym)].length = 6 ∧ cellBits [0x4F, 0x4F, 0x4F, 0x4F, 0x4F, 0x30] = none ∧
    cellBits (cellStr capCell) = some capCell ∧ cellBits (cellStr numCell) = some numCell ∧
    cellBits (cellStr spaceCell) = some spaceCell ∧ revDig cfgT 0x18 = some 9 ∧ revDig cfgT 0x22 = none ∧
    revLet cfgT 0x22 = .letter 10 ∧ revLet cfgT 0x02 = .none := by decide
theorem test_witness_ClsEngClearsBraille :
    (0x70 : Sym) ≠ 0x4F ∧ uniLetter cfgT 0x70 = true ∧ uniDigit cfgT 0x661 = true ∧ (0x20 : Sym) ≠ 0x4F := by decide
theorem test_witness_ClsOtherClearsBoth :
    (0x21 : Sym) ≠ 0x4F ∧ (0x21 : Sym) ≠ 0x2E ∧ uniLetter cfgT 0x21 = false ∧ uniDigit cfgT 0x21 = false ∧
    (0x21 : Sym) ≠ 0x20 := by decide
theorem test_witness_ClsEndWritesTagThenRunsTheCommand :
    (small .classify .classify [] 0).phase = .classify ∧ (small .classify .classify [] 0).cmd = .classify ∧
    (small .classify .translate [] 0).cmd = .translate ∧ (small .classify .translate [] 0).clsSeen = false ∧
    State.verdict { small .classify .translate [0x2E] 1 with clsSeen := true, clsE := false } = .braille ∧
    State.verdict { small .classify .translate [0x61] 1 with clsSeen := true, clsB := false } = .english := by decide
theorem test_witness_EncUpperStagesCapitalAndLetter :
    0x41 ≤ (0x41 : Sym).toNat ∧ (0x41 : Sym).toNat ≤ 0x5A ∧ 0x41 ≤ (0x5A : Sym).toNat ∧ (0x5A : Sym).toNat ≤ 0x5A := by decide
theorem test_witness_EncLowerStagesTheLetter :
    0x61 ≤ (0x61 : Sym).toNat ∧ (0x61 : Sym).toNat ≤ 0x7A ∧ 0x61 ≤ (0x7A : Sym).toNat ∧ (0x7A : Sym).toNat ≤ 0x7A := by decide
theorem test_witness_EncDigitStagesIndicatorOncePerRun :
    0x30 ≤ (0x30 : Sym).toNat ∧ (0x39 : Sym).toNat ≤ 0x39 ∧ (small .encode .encode [0x30] 0).encNum = false ∧
    State.encNum { small .encode .encode [0x30] 0 with encNum := true } = true := by decide
theorem test_witness_EncOtherRaisesUnsupportedCharacter :
    ¬(0x41 ≤ (0x40 : Sym).toNat ∧ (0x40 : Sym).toNat ≤ 0x5A) ∧ ¬(0x61 ≤ (0x40 : Sym).toNat ∧ (0x40 : Sym).toNat ≤ 0x7A) ∧
    ¬(0x30 ≤ (0x40 : Sym).toNat ∧ (0x40 : Sym).toNat ≤ 0x39) ∧ (0x40 : Sym).toNat ≠ 0x20 := by decide
theorem test_witness_DecPreChecksTheLength :
    (small .preflight .decode (cellStr 0x20) 0).inLen % 6 = 0 ∧ (small .preflight .decode [0x4F] 0).inLen % 6 ≠ 0 := by decide
/-- A decoder state with a capital pending and one without, for the statements about `DEC.CAP`, `DEC.NUM`, `DEC.SPACE`,
`DEC.DIGIT` and `DEC.END`. -/
theorem test_witness_DecCapPending :
    cfgT.lutValid = true ∧ (small .decode .decode (cellStr 0x20) 0).decCap = false ∧
    State.decCap { small .decode .decode (cellStr 0x20) 0 with decCap := true } = true := by decide
theorem test_witness_DecLetterStagesTheLetter : cfgT.lutValid = true := by decide
theorem test_witness_DecUnknownRaisesUnknownCell :
    [0x4F, 0x4F, 0x4F, 0x4F, 0x4F, (0x30 : Sym)].length = 6 ∧ cellBits [0x4F, 0x4F, 0x4F, 0x4F, 0x4F, 0x30] = none ∧
    revLet cfgT 0x3F = .none ∧ (0x27 : Cell) ≠ spaceCell ∧ (0x27 : Cell) ≠ capCell ∧ (0x27 : Cell) ≠ numCell ∧
    revDig cfgT 0x27 = none := by decide
theorem test_witness_CommandsActAtStartAndAtClsEnd :
    (small .idle .translate [] 0).phase = .idle ∧ (small .done .translate [] 0).phase = .done ∧
    (small .classify .translate [] 0).phase = .classify ∧
    State.tag { small .classify .translate [] 0 with tag := some .braille } = some .braille ∧
    State.tag { small .classify .translate [] 0 with tag := some .english } = some .english ∧
    State.tag { small .classify .translate [] 0 with tag := some .other } = some .other ∧
    (small .encode .encode [] 0).phase = .encode ∧ (small .preflight .decode [] 0).phase = .preflight ∧
    (small .decode .decode [] 0).phase = .decode := by decide
theorem test_witness_CommandsAct_register_code :
    decode cfgT .cmd [(small .idle .classify [] 0).cmd.code.setWidth 21] = .ok .cmdClassify ∧
    decode cfgT .cmd [(small .done .translate [] 0).cmd.code.setWidth 21] = .ok .cmdTranslate := by decide
theorem test_witness_StartInitialisesAndSelectsThePhase :
    (small .done .encode [0x61] 1).phase = .done ∧ (small .encode .encode [0x61] 1).phase ≠ .idle ∧
    (small .encode .encode [0x61] 1).phase ≠ .done := by decide
theorem test_witness_CtrlWriteStartsOrResets :
    (3 : BitVec 2).getLsbD 1 = true ∧ (1 : BitVec 2).getLsbD 1 = false ∧ (1 : BitVec 2).getLsbD 0 = true ∧
    (0 : BitVec 2).getLsbD 1 = false ∧ (0 : BitVec 2).getLsbD 0 = false := by decide
theorem test_witness_RaiseWritesOnlyTheErrorFields :
    (small .encode .encode [0x21] 0).err = none ∧ exec (.encOther 0x21) (small .encode .encode [0x21] 0) =
      .next { small .encode .encode [0x21] 0 with
        err := some .unsupportedCharacter, errPos := 0, outLen := 0, phase := .done } := ⟨rfl, rfl⟩
theorem test_witness_RegisterReadsFollowTheMap :
    (7 = 2 ∨ 7 ≤ 7) ∧ (2 = 2 ∨ 7 ≤ 2) ∧ (small .idle .translate [] 0).cmd = .translate ∧
    (small .idle .encode [] 0).cmd = .encode ∧ (small .idle .decode [] 0).cmd = .decode ∧
    (small .idle .classify [] 0).cmd = .classify := by decide
theorem test_witness_WritesWhileBusyAreIgnored :
    (small .decode .decode [] 0).phase ≠ .idle ∧ (small .decode .decode [] 0).phase ≠ .done ∧
    (1 : BitVec 2).getLsbD 1 = false := by decide
theorem test_witness_WritesWhenNotBusyTakeEffect :
    (small .idle .encode [0x61] 0).phase = .idle ∧ 20 ≤ (small .idle .encode [0x61] 0).cfg.inCap ∧
    (small .idle .encode [0x61] 0).cfg.inCap < 21 ∧ 19 < (small .idle .encode [0x61] 0).cfg.inCap ∧
    (small .idle .encode [0x61] 0).cfg.inCap ≤ 20 := by decide
theorem test_witness_WindowReadsFollowTheMap :
    (0 < cfgT.outCap ∧ 0 < State.outLen { small .done .decode [] 0 with outLen := 1, obuf := [(0, 0x61)] } ∧
      Memory.read [(0, 0x61)] 0 = some 0x61) ∧
    (239 < cfgT.outCap ∧ (small .done .decode [] 0).outLen ≤ 239) ∧ cfgT.outCap ≤ 240 ∧ 19 < cfgT.inCap ∧ cfgT.inCap ≤ 20 := by
  decide
theorem test_witness_StepRunsTheDecodedInstruction :
    (small .preflight .decode [] 0).phase = .preflight ∧ (small .idle .decode [] 0).phase = .idle ∧
    (small .classify .translate [] 0).idx ≤ (small .classify .translate [] 0).inLen ∧
    decode cfgT .cls ((small .classify .translate [0x4F] 0).memRead 0 1) = .ok .clsO ∧
    decode cfgT .enc ((small .encode .encode [0x4F] 0).memRead 0 1) = .ok (.encUpper 14) ∧
    decode cfgT (.dec false) ((small .decode .decode (cellStr 0x01) 0).memRead 0 6) = .ok (.decCap false) := by decide
/-- The three ways in which the next turn is the sequencer's. -/
theorem test_witness_SequencerTurn (rest : List Turn) :
    State.SequencerTurn (small .encode .encode [0x61] 0) (small .encode .encode [0x61] 0) ∧
    State.SequencerTurn { small .encode .encode [0x61] 0 with pending := .run :: rest }
      { small .encode .encode [0x61] 0 with pending := rest } ∧
    State.SequencerTurn { small .encode .encode [0x61] 0 with pending := .poll :: rest }
      { small .encode .encode [0x61] 0 with pending := .poll :: rest } :=
  ⟨.free _ rfl, .run { small .encode .encode [0x61] 0 with pending := .run :: rest } rest rfl,
    .poll _ rest rfl (show Phase.encode ≠ .done by decide)⟩
theorem test_witness_TurnsAreTakenInOrder :
    (small .done .encode [] 0).pending = [] ∧
    State.pending { small .done .encode [] 0 with pending := [.run] } = .run :: [] ∧
    State.pending { small .done .encode [] 0 with pending := [.host (.readReg 3)] } = .host (.readReg 3) :: [] ∧
    State.pending { small .done .encode [] 0 with pending := [.poll] } = .poll :: [] ∧
    (small .done .encode [] 0).phase = .done ∧ (small .encode .encode [] 0).phase ≠ .done ∧
    State.pending { small .done .encode [] 0 with pending := [.resetInput] } = .resetInput :: [] := by decide
theorem test_witness_SequencerNeverWritesTheInput :
    nextHas (step (small .encode .encode [0x61] 0)) (fun _ => true) = true ∧
    nextHas (step { small .encode .encode [0x61] 0 with pending := [.run, .poll] }) (fun t => t.pending == [.poll]) = true ∧
    nextHas (step { small .encode .encode [0x61] 0 with pending := [.poll] }) (fun t => t.pending == [.poll]) = true := by
  decide

/-- A busy encoder before its first symbol meets the invariant. -/
theorem test_witness_Inv : (small .encode .encode [0x61] 0).Inv := by constructor <;> decide
/-- A decoder one cell into its input meets the invariant. -/
theorem test_witness_Inv_decode :
    State.Inv { small .decode .decode (cellStr 0x01 ++ cellStr 0x20) 6 with decCap := true } := by constructor <;> decide
theorem test_witness_Inv_steps :
    nextHas (step (small .encode .encode [0x61] 0)) (fun t => t.idx == 1) = true ∧
    nextHas (step { small .decode .decode (cellStr 0x01 ++ cellStr 0x20) 6 with decCap := true }) (fun t => t.idx == 12) = true := by
  decide
theorem test_witness_FlagsTrack : (small .encode .encode [0x61] 0).FlagsTrack := by constructor <;> decide
theorem test_witness_FlagsTrack_decode :
    State.FlagsTrack { small .decode .decode (cellStr 0x01 ++ cellStr 0x20) 6 with decCap := true } := by constructor <;> decide
theorem test_witness_FlagsTrack_number_mode :
    State.FlagsTrack { small .decode .decode (cellStr 0x00 ++ cellStr 0x17 ++ cellStr 0x20) 12 with decNum := true } := by
  constructor <;> decide
theorem test_witness_EncodeCommand :
    (small .idle .encode [0x61] 0).phase.busy = false ∧ (small .idle .encode [0x61] 0).cmd = .encode := by decide
theorem test_witness_DecodeCommand :
    (small .done .decode [0x4F] 0).phase.busy = false ∧ (small .done .decode [0x4F] 0).cmd = .decode := by decide
theorem test_witness_ClassifyCommand :
    (small .idle .classify [] 0).phase.busy = false ∧ (small .idle .classify [] 0).cmd = .classify := by decide
theorem test_witness_TranslateCommand :
    (small .idle .translate [0x61] 0).phase.busy = false ∧ (small .idle .translate [0x61] 0).cmd = .translate := by decide
theorem test_witness_ResultIsIndependentOfHistory :
    (small .idle .encode [0x61] 0).phase.busy = false ∧ (small .done .encode [0x61] 1).phase.busy = false ∧
    (small .idle .encode [0x61] 0).cmd = (small .done .encode [0x61] 1).cmd ∧
    (small .idle .encode [0x61] 0).cfg = (small .done .encode [0x61] 1).cfg ∧
    (small .idle .encode [0x61] 0).inLen = (small .done .encode [0x61] 1).inLen ∧
    (small .idle .encode [0x61] 0).input = (small .done .encode [0x61] 1).input :=
  ⟨rfl, rfl, rfl, rfl, rfl, rfl⟩
/-- A block with an empty input at the end of the classifier: the shortest and the tightest case of the bound. -/
theorem test_witness_BusyBlockReachesDone :
    (small .classify .translate [] 0).Inv ∧ (small .classify .translate [] 0).FlagsTrack ∧
    (small .classify .translate [] 0).phase.busy = true ∧ (small .classify .translate [] 0).pending = [] := by
  refine ⟨?_, ?_, by decide, by decide⟩ <;> constructor <;> decide
theorem test_witness_DecodeOfEncodedTextIsTheText :
    cfgT.lutValid = true ∧ (∀ c ∈ [(0x41 : Sym), 0x31], encClass c ≠ .other) ∧
    ∀ n c c', [(0x41 : Sym), 0x31][n]? = some c → [(0x41 : Sym), 0x31][n + 1]? = some c' → isDigit c = true →
      isUpper c' = false ∧ isLower c' = false := by
  refine ⟨by decide, fun c hc => ?_, fun n c c' h h' hd => ?_⟩
  · rcases List.mem_cons.1 hc with rfl | hc
    · decide
    · obtain rfl := List.mem_singleton.1 hc
      decide
  match n with
  | 0 =>
    obtain rfl : (0x41 : Sym) = c := by simpa using h
    exact absurd hd (by decide)
  | k + 1 => simp at h'
/-- The letters at the two ends of each clause about a digit and a letter alone: `a`, `j` with the digits `1`, `0`, and
`k`. -/
theorem test_witness_DecodeOfEncodedText_digit_and_letter :
    (0 : Fin 26).val < 10 ∧ (1 : Fin 10).val = ((0 : Fin 26).val + 1) % 10 ∧
    (9 : Fin 26).val < 10 ∧ (0 : Fin 10).val = ((9 : Fin 26).val + 1) % 10 ∧ 10 ≤ (10 : Fin 26).val := by decide
theorem test_witness_EncodedLengthCountsTheCells : encodeFn cfgT [0x61] = .ok (cellStr 0x20) := rfl
theorem test_witness_TranslateErrorsFollowTheClassifier : ∀ c ∈ [(0x7F : Sym)], c.toNat < 0x80 := by
  intro c hc
  obtain rfl := List.mem_singleton.1 hc
  decide

end Sys2Proof.Tests
end

section
/-!
The character predicates (00_scope.md R6, R9) as facts about the code of a symbol: the ASCII classes are ranges, the
open predicates are these classes below 0x80, and they are false outside the Unicode scalar values.
-/
namespace Sys2Proof.Machine

theorem isUpper_iff (c : Sym) : isUpper c = true ↔ 0x41 ≤ c.toNat ∧ c.toNat ≤ 0x5A := by
  rw [isUpper, Bool.and_eq_true, decide_eq_true_iff, decide_eq_true_iff]

theorem isLower_iff (c : Sym) : isLower c = true ↔ 0x61 ≤ c.toNat ∧ c.toNat ≤ 0x7A := by
  rw [isLower, Bool.and_eq_true, decide_eq_true_iff, decide_eq_true_iff]

theorem isDigit_iff (c : Sym) : isDigit c = true ↔ 0x30 ≤ c.toNat ∧ c.toNat ≤ 0x39 := by
  rw [isDigit, Bool.and_eq_true, decide_eq_true_iff, decide_eq_true_iff]

/-- The values that are no scalar value are the surrogates and those past the last code point (00_scope.md R6). -/
theorem isScalar_eq_false_iff (c : Sym) :
    isScalar c = false ↔ (0xD800 ≤ c.toNat ∧ c.toNat ≤ 0xDFFF) ∨ 0x10FFFF < c.toNat := by
  simp only [isScalar, Bool.and_eq_false_iff, Bool.not_eq_false', Bool.and_eq_true, decide_eq_true_iff,
    decide_eq_false_iff_not, Nat.not_le]
  exact or_comm

/-- A value that is no scalar value lies in the open range of the predicates. -/
theorem not_ascii_of_not_scalar (c : Sym) (h : isScalar c = false) : ¬ c.toNat < 0x80 := by
  rw [isScalar_eq_false_iff] at h
  omega

theorem uniLetter_of_ascii (cfg : Config) (c : Sym) (h : c.toNat < 0x80) :
    uniLetter cfg c = (isUpper c || isLower c) := if_pos h

theorem uniDigit_of_ascii (cfg : Config) (c : Sym) (h : c.toNat < 0x80) : uniDigit cfg c = isDigit c := if_pos h

theorem uniLetter_of_not_ascii (cfg : Config) (c : Sym) (h : ¬ c.toNat < 0x80) :
    uniLetter cfg c = (isScalar c && cfg.uniLetterHigh.contains c) := if_neg h

theorem uniDigit_of_not_ascii (cfg : Config) (c : Sym) (h : ¬ c.toNat < 0x80) :
    uniDigit cfg c = (isScalar c && cfg.uniDigitHigh.contains c) := if_neg h

theorem uniLetter_iff_of_ascii (cfg : Config) (c : Sym) (h : c.toNat < 0x80) :
    uniLetter cfg c = true ↔
      (0x41 ≤ c.toNat ∧ c.toNat ≤ 0x5A) ∨ (0x61 ≤ c.toNat ∧ c.toNat ≤ 0x7A) := by
  rw [uniLetter_of_ascii cfg c h, Bool.or_eq_true, isUpper_iff, isLower_iff]

theorem uniDigit_iff_of_ascii (cfg : Config) (c : Sym) (h : c.toNat < 0x80) :
    uniDigit cfg c = true ↔ 0x30 ≤ c.toNat ∧ c.toNat ≤ 0x39 := by
  rw [uniDigit_of_ascii cfg c h, isDigit_iff]

theorem uniLetter_of_not_scalar (cfg : Config) (c : Sym) (h : isScalar c = false) : uniLetter cfg c = false := by
  rw [uniLetter_of_not_ascii cfg c (not_ascii_of_not_scalar c h), h, Bool.false_and]

theorem uniDigit_of_not_scalar (cfg : Config) (c : Sym) (h : isScalar c = false) : uniDigit cfg c = false := by
  rw [uniDigit_of_not_ascii cfg c (not_ascii_of_not_scalar c h), h, Bool.false_and]

/-- Settles O13, by the side of 0x80 on which the symbol lies: below it the predicates are the ASCII classes, and a value
that is no scalar value lies above it, where the scalar test decides. -/
theorem openPredicatesAreFixedOnAscii : Obligations.OpenPredicatesAreFixedOnAscii := by
  intro cfg c
  refine ⟨fun hlow => ?_, fun hout => ?_⟩
  · exact ⟨uniLetter_iff_of_ascii cfg c hlow, uniDigit_iff_of_ascii cfg c hlow⟩
  · have hns : isScalar c = false := (isScalar_eq_false_iff c).mpr hout
    exact ⟨uniLetter_of_not_scalar cfg c hns, uniDigit_of_not_scalar cfg c hns⟩

end Sys2Proof.Machine
end

section
/-!
The classes of the classifier as the two flags see them (40_classifier.md R100, R101 to R104), and the cell string as a
one-to-one form of the packed cell (30_encoding.md R73).
-/
namespace Sys2Proof.Machine

theorem isEnglish_symO (cfg : Config) : isEnglish cfg symO = true := by
  have h : uniLetter cfg symO = true := (uniLetter_iff_of_ascii cfg symO (by decide)).mpr (by decide)
  rw [isEnglish, h, Bool.true_or, Bool.true_or]

theorem isEnglish_symDot (cfg : Config) : isEnglish cfg symDot = false := by
  have hl : uniLetter cfg symDot = false := uniLetter_of_ascii cfg symDot (by decide)
  have hd : uniDigit cfg symDot = false := uniDigit_of_ascii cfg symDot (by decide)
  rw [isEnglish, hl, hd]
  rfl

theorem isBraille_eq_false_iff (c : Sym) : isBraille c = false ↔ c ≠ symO ∧ c ≠ symDot := by
  simp [isBraille]

/-- The class of a symbol fixes on which of the two flags of the classifier it is a good symbol. -/
theorem clsClass_cases (cfg : Config) (c : Sym) :
    (clsClass cfg c = .o ∧ isBraille c = true ∧ isEnglish cfg c = true) ∨
    (clsClass cfg c = .dot ∧ isBraille c = true ∧ isEnglish cfg c = false) ∨
    (clsClass cfg c = .eng ∧ isBraille c = false ∧ isEnglish cfg c = true) ∨
    (clsClass cfg c = .other ∧ isBraille c = false ∧ isEnglish cfg c = false) := by
  by_cases ho : c = symO
  · subst ho
    exact .inl ⟨rfl, rfl, isEnglish_symO cfg⟩
  · by_cases hd : c = symDot
    · subst hd
      exact .inr (.inl ⟨rfl, rfl, isEnglish_symDot cfg⟩)
    · have hb : isBraille c = false := (isBraille_eq_false_iff c).mpr ⟨ho, hd⟩
      cases he : isEnglish cfg c <;> simp [clsClass, ho, hd, hb, he]

/-- The digits are the class DIGIT of the encoder. -/
theorem encClass_eq_digit_iff (c : Sym) : encClass c = .digit ↔ isDigit c = true := by
  unfold encClass
  split_ifs with hu hl hd hs
  · rw [isUpper_iff] at hu
    simp only [isDigit_iff, false_iff]
    omega
  · rw [isLower_iff] at hl
    simp only [isDigit_iff, false_iff]
    omega
  all_goals simp [hd]

/-- The bits of a packed cell are its positions. -/
theorem packCell_getLsbD (b5 b4 b3 b2 b1 b0 : Bool) :
    (packCell b5 b4 b3 b2 b1 b0).getLsbD 0 = b0 ∧ (packCell b5 b4 b3 b2 b1 b0).getLsbD 1 = b1 ∧
    (packCell b5 b4 b3 b2 b1 b0).getLsbD 2 = b2 ∧ (packCell b5 b4 b3 b2 b1 b0).getLsbD 3 = b3 ∧
    (packCell b5 b4 b3 b2 b1 b0).getLsbD 4 = b4 ∧ (packCell b5 b4 b3 b2 b1 b0).getLsbD 5 = b5 := by
  revert b5 b4 b3 b2 b1 b0
  decide

theorem cellStr_packCell (b5 b4 b3 b2 b1 b0 : Bool) :
    cellStr (packCell b5 b4 b3 b2 b1 b0) =
      [dotSym b5, dotSym b4, dotSym b3, dotSym b2, dotSym b1, dotSym b0] := by
  obtain ⟨h0, h1, h2, h3, h4, h5⟩ := packCell_getLsbD b5 b4 b3 b2 b1 b0
  rw [cellStr, h0, h1, h2, h3, h4, h5]

theorem symDot?_dotSym (b : Bool) : symDot? (dotSym b) = some b := by cases b <;> rfl

theorem dotSym_of_symDot? (c : Sym) (b : Bool) (h : symDot? c = some b) : dotSym b = c := by
  unfold symDot? at h
  split_ifs at h with ho hd <;> cases h
  · exact ho.symm
  · exact hd.symm

theorem cellBits_cellStr (b : Cell) : cellBits (cellStr b) = some b := by
  simp only [cellBits, cellStr, List.map_cons, List.map_nil, symDot?_dotSym, Option.some.injEq]
  revert b
  decide

theorem cellStr_of_cellBits (g : List Sym) (b : Cell) (h : cellBits g = some b) : cellStr b = g := by
  unfold cellBits at h
  split at h
  next b5 b4 b3 b2 b1 b0 hg =>
    obtain rfl := Option.some.inj h
    simp only [List.map_eq_cons_iff, List.map_eq_nil_iff] at hg
    obtain ⟨c5, _, rfl, h5, c4, _, rfl, h4, c3, _, rfl, h3, c2, _, rfl, h2, c1, _, rfl, h1, c0, _, rfl, h0, rfl⟩ := hg
    rw [cellStr_packCell, dotSym_of_symDot? c5 b5 h5, dotSym_of_symDot? c4 b4 h4, dotSym_of_symDot? c3 b3 h3,
      dotSym_of_symDot? c2 b2 h2, dotSym_of_symDot? c1 b1 h1, dotSym_of_symDot? c0 b0 h0]
  next => cases h

/-- A group of symbols has the packed form `b` exactly if it is the string of `b` (30_encoding.md R73). -/
theorem cellBits_eq_some_iff (g : List Sym) (b : Cell) : cellBits g = some b ↔ g = cellStr b :=
  ⟨fun h => (cellStr_of_cellBits g b h).symm, fun h => h ▸ cellBits_cellStr b⟩

theorem cellStr_inj (b b' : Cell) : cellStr b = cellStr b' ↔ b = b' := by
  rw [← cellBits_eq_some_iff, cellBits_cellStr, Option.some.injEq]

end Sys2Proof.Machine
end

section
/-!
What one turn of the sequencer can do, said once in terms of the symbols it reads (43_dispatch.md R168), and what one
host operation can do. Every invariant below is a case analysis over these two relations.
-/
namespace Sys2Proof.Machine

/-- The state after the classifier has read the symbol `c` (40_classifier.md R101 to R104). -/
def State.afterCls (s : State) (c : Sym) : State :=
  State.advance
    { s with clsSeen := true, clsB := s.clsB && isBraille c, clsE := s.clsE && isEnglish s.cfg c } 1

/-- The state after the encoder has read the symbol `c` and staged `v` (41_encoder.md R116 to R119). -/
def State.afterEnc (s : State) (c : Sym) (v : List Sym) : State :=
  (State.emit { s with encNum := isDigit c } v).advance 1

/-- The state after the decoder has read the group `g` and staged `v` (42_decoder.md R138 to R142). -/
def State.afterDec (s : State) (g v : List Sym) : State :=
  State.advance
    { s.emit v with
      decCap := g == cellStr capCell
      decNum := g == cellStr numCell || (!(g == cellStr spaceCell) && s.decNum) } 6

/-- Everything one turn of the sequencer can do (43_dispatch.md R168). -/
inductive SequencerEffect (s : State) : State → Prop where
  /-- IDLE and DONE: no step. -/
  | keep : s.phase.busy = false → SequencerEffect s s
  | classifyRead : s.phase = .classify → s.idx < s.inLen → SequencerEffect s (s.afterCls (s.inAt s.idx))
  | classifyFinish : s.phase = .classify → SequencerEffect s (State.finish { s with tag := some s.verdict })
  | translateBraille : s.phase = .classify → s.cmd = .translate →
      SequencerEffect s (State.handOver { s with tag := some .braille } .preflight)
  | translateEnglish : s.phase = .classify → s.cmd = .translate →
      SequencerEffect s (State.handOver { s with tag := some .english } .encode)
  | translateOther : s.phase = .classify →
      SequencerEffect s (State.raise { s with tag := some .other } .unclassifiableInput s.inLen)
  | encodeRead (v : List Sym) : s.phase = .encode → s.idx < s.inLen → v.length = 6 ∨ v.length = 12 →
      SequencerEffect s (s.afterEnc (s.inAt s.idx) v)
  /-- The end of the encoder or of the decoder. -/
  | finish : s.phase = .encode ∨ s.phase = .decode → SequencerEffect s s.finish
  | lengthPasses : s.phase = .preflight → s.inLen % 6 = 0 → SequencerEffect s { s with phase := .decode }
  | decodeRead (v : List Sym) : s.phase = .decode → s.idx + 6 ≤ s.inLen → v.length ≤ 1 →
      SequencerEffect s (s.afterDec (s.memRead s.idx 6) v)
  /-- The encoder or the decoder raises an error at a position of the input or at its end. -/
  | raise (k : ErrKind) (pos : Nat) : k ≠ .missingArguments → pos ≤ s.inLen → SequencerEffect s (s.raise k pos)

/-! ### What is fetched -/

theorem State.window_end (s : State) (n : Nat) (h : s.idx = s.inLen) : s.window n = [] := by
  simp [State.window, h, State.memRead]

theorem State.window_full (s : State) (n : Nat) (h : s.idx + n ≤ s.inLen) : s.window n = s.memRead s.idx n := by
  rw [State.window, Nat.min_eq_left (by omega)]

/-- What `fetchAt` finds is what the decoder reads from the symbols left. -/
theorem State.fetchAt_eq_instr (s : State) (f : Format) (n : Nat) (i : Instr) (h : s.fetchAt f n = .instr i) :
    s.idx ≤ s.inLen ∧ decode s.cfg f (s.window n) = .ok i := by
  obtain ⟨_, hf⟩ | ⟨hle, j, hj, hf⟩ | ⟨_, e, _, hf⟩ := s.fetchAt_cases f n <;> rw [hf] at h <;> cases h
  exact ⟨hle, hj⟩

theorem decode_dec_of_length_six (cfg : Config) (m : Bool) (g : List Sym) (h : g.length = 6) :
    decode cfg (.dec m) g = .ok (decodeCell cfg m g) := by
  simp [decode, h]

/-- The decoder accepts a window of cells only at the end of the input or where six symbols are left. -/
theorem State.decode_dec_window (s : State) (m : Bool) (i : Instr) (hle : s.idx ≤ s.inLen)
    (h : decode s.cfg (.dec m) (s.window 6) = .ok i) :
    (s.idx = s.inLen ∧ i = .decEnd) ∨ (s.idx + 6 ≤ s.inLen ∧ i = decodeCell s.cfg m (s.memRead s.idx 6)) := by
  have hlen := s.window_length 6
  by_cases h0 : s.idx = s.inLen
  · rw [s.window_end 6 h0] at h
    cases h
    exact .inl ⟨h0, rfl⟩
  by_cases h6 : s.idx + 6 ≤ s.inLen
  · rw [s.window_full 6 h6, decode_dec_of_length_six _ _ _ (s.memRead_length _ _)] at h
    exact .inr ⟨h6, by simpa using h.symm⟩
  · have hne : (s.window 6).length ≠ 0 ∧ (s.window 6).length ≠ 6 := by omega
    simp [decode, hne] at h

/-- Which instruction the sequencer finds, by phase (43_dispatch.md R168). -/
theorem State.fetch_eq_instr (s : State) (i : Instr) (h : s.fetch = .instr i) :
    (s.phase = .classify ∧ i = .clsEnd) ∨
    (s.phase = .classify ∧ s.idx < s.inLen ∧ i = decodeCls s.cfg (s.inAt s.idx)) ∨
    (s.phase = .encode ∧ i = .encEnd) ∨
    (s.phase = .encode ∧ s.idx < s.inLen ∧ i = decodeEnc (s.inAt s.idx)) ∨
    (s.phase = .preflight ∧ i = .decPre) ∨
    (s.phase = .decode ∧ i = .decEnd) ∨
    (s.phase = .decode ∧ s.idx + 6 ≤ s.inLen ∧ i = decodeCell s.cfg s.decNum (s.memRead s.idx 6)) := by
  cases hp : s.phase <;> simp only [State.fetch, hp] at h
  case idle | done => cases h
  case preflight => simpa using h.symm
  all_goals obtain ⟨hle, hd⟩ := s.fetchAt_eq_instr _ _ _ h
  case decode => simpa using (s.decode_dec_window _ i hle hd).imp_left And.right
  all_goals
    by_cases h0 : s.idx = s.inLen
    · rw [s.window_end 1 h0] at hd
      cases hd
      simp
    · have hlt : s.idx < s.inLen := by omega
      rw [s.window_full 1 hlt] at hd
      cases hd
      simp [hlt]

/-! ### What is executed -/

theorem exec_decodeCls (s : State) (c : Sym) : exec (decodeCls s.cfg c) s = .next (s.afterCls c) := by
  obtain ⟨hk, hb, he⟩ | ⟨hk, hb, he⟩ | ⟨hk, hb, he⟩ | ⟨hk, hb, he⟩ := clsClass_cases s.cfg c <;>
    simp [decodeCls, hk, State.afterCls, hb, he, exec, execClsO, execClsDot, execClsEng, execClsOther]

theorem State.afterEnc_of_isDigit_eq (s : State) (c : Sym) (v : List Sym) (b : Bool) (h : isDigit c = b) :
    s.afterEnc c v = (State.emit { s with encNum := b } v).advance 1 := by
  rw [State.afterEnc, h]

/-- A digit inside a run stages its cell alone, the first of a run NUMBER_FOLLOWS before it. -/
theorem exec_encDigit (s : State) (c : Sym) (d : Fin 10) (h : isDigit c = true) :
    ∃ v, (v.length = 6 ∨ v.length = 12) ∧ exec (.encDigit d) s = .next (s.afterEnc c v) := by
  cases hn : s.encNum with
  | false =>
    refine ⟨cellStr numCell ++ cellStr (digitCell s.cfg d), .inr rfl, ?_⟩
    rw [s.afterEnc_of_isDigit_eq c _ true h, ← State.emit_emit]
    simp only [exec, execEncDigit, hn, if_true]
    rfl
  | true =>
    have hs : { s with encNum := true } = s := by rw [← hn]
    refine ⟨cellStr (digitCell s.cfg d), .inl rfl, ?_⟩
    rw [s.afterEnc_of_isDigit_eq c _ true h, hs]
    simp only [exec, execEncDigit, hn, Bool.true_eq_false, if_false]

/-- The encoder refuses a character, or stages one or two cells for it. -/
theorem exec_decodeEnc (s : State) (c : Sym) :
    exec (decodeEnc c) s = .next (s.raise .unsupportedCharacter s.idx) ∨
    ∃ v, (v.length = 6 ∨ v.length = 12) ∧ exec (decodeEnc c) s = .next (s.afterEnc c v) := by
  have hd := encClass_eq_digit_iff c
  cases hk : encClass c <;> rw [hk] at hd <;> simp only [decodeEnc, hk]
  case other => exact .inl rfl
  case digit => exact .inr (exec_encDigit s c (digitValue c) (hd.mp rfl))
  all_goals
    have hnot : isDigit c = false := by simpa using hd
    simp only [s.afterEnc_of_isDigit_eq c _ false hnot]
  case upper => exact .inr ⟨_, .inr rfl, rfl⟩
  case lower => exact .inr ⟨_, .inl rfl, rfl⟩
  case space => exact .inr ⟨_, .inl rfl, rfl⟩

theorem State.afterDec_cellStr (s : State) (b : Cell) (v : List Sym) :
    s.afterDec (cellStr b) v = State.advance
      { s.emit v with decCap := b == capCell, decNum := b == numCell || (!(b == spaceCell) && s.decNum) } 6 := by
  simp only [State.afterDec, Bool.beq_eq_decide_eq, cellStr_inj]

/-- A cell that is none of the three named ones clears DEC_CAP and keeps DEC_NUM. -/
theorem State.afterDec_unnamed (s : State) (b : Cell) (v : List Sym) (hcap : b ≠ capCell) (hnum : b ≠ numCell)
    (hspace : b ≠ spaceCell) :
    s.afterDec (cellStr b) v = State.advance { s.emit v with decCap := false } 6 := by
  simp only [s.afterDec_cellStr, beq_false_of_ne hcap, beq_false_of_ne hnum, beq_false_of_ne hspace]
  rfl

/-- What an instruction of the decoder does with the group `g`: it refuses it, or stages at most one symbol for it. -/
def State.ReadsCell (s : State) (g : List Sym) (i : Instr) : Prop :=
  (∃ k, k ≠ .missingArguments ∧ exec i s = .next (s.raise k s.idx)) ∨
  ∃ v, v.length ≤ 1 ∧ exec i s = .next (s.afterDec g v)

theorem State.readsCell_decUnknown (s : State) (m : Bool) (g : List Sym) : s.ReadsCell g (.decUnknown m g) :=
  .inl ⟨.unknownCell, by decide, rfl⟩

theorem State.readsCell_decCap (s : State) (m : Bool) : s.ReadsCell (cellStr capCell) (.decCap m) := by
  cases hc : s.decCap with
  | true => exact .inl ⟨.invalidSequence, by decide, if_pos hc⟩
  | false =>
    refine .inr ⟨[], zero_le_one, ?_⟩
    rw [s.afterDec_cellStr]
    exact if_neg (ne_true_of_eq_false hc)

theorem State.readsCell_decNum (s : State) (m : Bool) : s.ReadsCell (cellStr numCell) (.decNum m) := by
  cases hc : s.decCap with
  | true => exact .inl ⟨.invalidSequence, by decide, if_pos hc⟩
  | false =>
    have hcap : (numCell == capCell) = s.decCap := by rw [hc]; rfl
    refine .inr ⟨[], zero_le_one, ?_⟩
    rw [s.afterDec_cellStr, hcap]
    exact if_neg (ne_true_of_eq_false hc)

theorem State.readsCell_decSpace (s : State) (m : Bool) : s.ReadsCell (cellStr spaceCell) (.decSpace m) := by
  cases hc : s.decCap with
  | true => exact .inl ⟨.invalidSequence, by decide, if_pos hc⟩
  | false =>
    have hcap : (spaceCell == capCell) = s.decCap := by rw [hc]; rfl
    refine .inr ⟨[symSpace], le_refl 1, ?_⟩
    rw [s.afterDec_cellStr, hcap]
    exact if_neg (ne_true_of_eq_false hc)

section
variable (s : State) (b : Cell) (hcap : b ≠ capCell) (hnum : b ≠ numCell) (hspace : b ≠ spaceCell)
include hcap hnum hspace

theorem State.readsCell_decDigit (d : Fin 10) : s.ReadsCell (cellStr b) (.decDigit d) := by
  cases hc : s.decCap with
  | true => exact .inl ⟨.invalidSequence, by decide, if_pos hc⟩
  | false =>
    refine .inr ⟨[digitSym d], le_refl 1, ?_⟩
    rw [s.afterDec_unnamed b _ hcap hnum hspace, ← hc]
    exact if_neg (ne_true_of_eq_false hc)

theorem State.readsCell_decLetter (j : Fin 26) : s.ReadsCell (cellStr b) (.decLetter j) := by
  refine .inr ⟨[if s.decCap then upperSym j else lowerSym j], le_refl 1, ?_⟩
  rw [s.afterDec_unnamed b _ hcap hnum hspace]
  rfl

end

/-- Every group of six symbols is read so, in both modes. -/
theorem State.readsCell_decodeCell (s : State) (cfg : Config) (m : Bool) (g : List Sym) :
    s.ReadsCell g (decodeCell cfg m g) := by
  cases hb : cellBits g with
  | none =>
    simp only [decodeCell, hb]
    exact s.readsCell_decUnknown m g
  | some b =>
    obtain rfl := (cellBits_eq_some_iff g b).mp hb
    simp only [decodeCell, hb]
    split_ifs with hcap hnum hspace hm
    · exact hcap ▸ s.readsCell_decCap m
    · exact hnum ▸ s.readsCell_decNum m
    · exact hspace ▸ s.readsCell_decSpace m
    · split
      · exact s.readsCell_decDigit b hcap hnum hspace _
      · exact s.readsCell_decUnknown m _
    · split
      · exact s.readsCell_decLetter b hcap hnum hspace _
      · exact s.readsCell_decUnknown m _

/-- In phase CLASSIFY, `CLS.END` ends the command or hands the input over to the decoder or the encoder
(40_classifier.md R105, 43_dispatch.md R162, R163). -/
theorem State.effect_of_clsEnd (s t : State) (hp : s.phase = .classify) (h : exec .clsEnd s = .next t) :
    SequencerEffect s t := by
  have hc := runCommand_cases { s with tag := some s.verdict } t h
  simp only [hp, Phase.busy, Bool.true_eq_false, false_and, true_and, false_or, reduceCtorEq, and_false,
    or_false, Option.some.injEq] at hc
  obtain ⟨-, rfl⟩ | ⟨hcmd, hv, rfl⟩ | ⟨hcmd, hv, rfl⟩ | ⟨-, hv, rfl⟩ := hc
  · exact .classifyFinish hp
  · rw [hv]
    exact .translateBraille hp hcmd
  · rw [hv]
    exact .translateEnglish hp hcmd
  · rw [hv]
    exact .translateOther hp

theorem State.effect_of_decPre (s t : State) (hp : s.phase = .preflight) (h : exec .decPre s = .next t) :
    SequencerEffect s t := by
  simp only [exec, execDecPre] at h
  split_ifs at h with hlen <;> cases h
  · exact .raise .truncatedCell _ (by decide) (by omega)
  · exact .lengthPasses hp (by omega)

theorem State.effect_of_decEnd (s t : State) (hp : s.phase = .decode) (h : exec .decEnd s = .next t) :
    SequencerEffect s t := by
  simp only [exec, execDecEnd] at h
  split_ifs at h with hcap <;> cases h
  · exact .raise .danglingCapital _ (by decide) (le_refl _)
  · exact .finish (.inr hp)

/-- What one turn of the sequencer can do. -/
theorem State.effect_of_sequence (s t : State) (h : s.sequence = .next t) : SequencerEffect s t := by
  obtain ⟨hp, rfl⟩ | ⟨i, hf, he⟩ := s.sequence_cases t h
  · exact .keep (by obtain hp | hp := hp <;> rw [hp] <;> rfl)
  obtain ⟨hp, rfl⟩ | ⟨hp, hlt, rfl⟩ | ⟨hp, rfl⟩ | ⟨hp, hlt, rfl⟩ | ⟨hp, rfl⟩ | ⟨hp, rfl⟩ | ⟨hp, hle, rfl⟩ :=
    s.fetch_eq_instr i hf
  · exact s.effect_of_clsEnd t hp he
  · rw [exec_decodeCls] at he
    cases he
    exact .classifyRead hp hlt
  · cases he
    exact .finish (.inl hp)
  · obtain hr | ⟨v, hv, hr⟩ := exec_decodeEnc s (s.inAt s.idx) <;> rw [hr] at he <;> cases he
    · exact .raise .unsupportedCharacter s.idx (by decide) (by omega)
    · exact .encodeRead v hp hlt hv
  · exact s.effect_of_decPre t hp he
  · exact s.effect_of_decEnd t hp he
  · obtain ⟨k, hk, hr⟩ | ⟨v, hv, hr⟩ := s.readsCell_decodeCell s.cfg s.decNum (s.memRead s.idx 6) <;>
      rw [hr] at he <;> cases he
    · exact .raise k s.idx hk (by omega)
    · exact .decodeRead v hp hle hv

end Sys2Proof.Machine
end

section
/-! What one host operation and one step of the block can do, and the induction principle of a kept property. -/
namespace Sys2Proof.Machine

/-- The phase that a command starts in (43_dispatch.md R161). -/
def Cmd.firstPhase : Cmd → Phase
  | .translate | .classify => .classify
  | .encode => .encode
  | .decode => .preflight

theorem Cmd.firstPhase_eq_classify_iff (c : Cmd) : c.firstPhase = .classify ↔ c = .translate ∨ c = .classify := by
  cases c <;> decide

theorem Cmd.firstPhase_eq_encode_iff (c : Cmd) : c.firstPhase = .encode ↔ c = .encode := by cases c <;> decide

theorem Cmd.firstPhase_eq_preflight_iff (c : Cmd) : c.firstPhase = .preflight ↔ c = .decode := by
  cases c <;> decide

theorem Cmd.firstPhase_ne_decode (c : Cmd) : c.firstPhase ≠ .decode := by cases c <;> decide

/-- Everything one host operation can do (20_memory.md R58, R63, 10_state.md R31). -/
inductive HostEffect (s : State) : State → Prop where
  | keep : HostEffect s s
  /-- A read changes the read port at most. -/
  | read (r f : Nat) : HostEffect s { s with readData := r, freeReads := f }
  | writeCmd (c : Cmd) : s.phase.busy = false → HostEffect s { s with cmd := c }
  | writeInLen (n : Nat) : s.phase.busy = false → n ≤ s.cfg.inCap → HostEffect s { s with inLen := n }
  | writeIn (i : Nat) (v : Sym) : s.phase.busy = false → i < s.cfg.inCap →
      HostEffect s { s with inBuf := s.inBuf.write i v }
  | start : s.phase.busy = false → HostEffect s { s.startInit with phase := s.cmd.firstPhase }
  | reset : HostEffect s s.resetRegs

theorem Phase.busy_eq_false_iff (p : Phase) : p.busy = false ↔ p = .idle ∨ p = .done := by
  cases p <;> decide

/-- In a block that is not busy the command selects its first phase (43_dispatch.md R161). -/
theorem runCommand_of_not_busy (s : State) (h : s.phase.busy = false) :
    runCommand s = .next { s with phase := s.cmd.firstPhase } := by
  obtain hp | hp := (Phase.busy_eq_false_iff s.phase).mp h <;> cases hc : s.cmd <;>
    simp [runCommand, execCmdTranslate, execCmdEncode, execCmdDecode, execCmdClassify, hp, hc, Cmd.firstPhase]

theorem State.effect_of_start (s t : State) (h : exec .ctrlStart s = .next t) : HostEffect s t := by
  simp only [exec, execCtrlStart] at h
  split_ifs at h with hb
  · cases h
    exact .keep
  · have hidle : s.phase.busy = false := Bool.eq_false_iff.mpr hb
    rw [runCommand_of_not_busy s.startInit hidle] at h
    cases h
    exact .start hidle

theorem State.effect_of_ctrl (s t : State) (v : BitVec 2) (h : exec (decodeCtrl v) s = .next t) : HostEffect s t := by
  unfold decodeCtrl at h
  split_ifs at h
  · cases h
    exact .reset
  · exact s.effect_of_start t h
  · cases h
    exact .keep

/-- What one host operation can do. -/
theorem State.effect_of_hostOperation (s t : State) (op : HostOp) (h : hostOperation op s = .next t) :
    HostEffect s t := by
  obtain ⟨v, -, he⟩ | ⟨n, v, -, -, rfl⟩ | ⟨n, -, rfl⟩ | ⟨w, i, -, rfl⟩ | ⟨w, i, v, -, rfl⟩ :=
    hostOperation_cases op s t h
  · exact s.effect_of_ctrl t _ he
  · obtain hw | ⟨hb, -, hw⟩ | ⟨hb, -, hv, hw⟩ := s.writeReg_cases n v <;> rw [hw]
    · exact .keep
    · exact .writeCmd _ hb
    · exact .writeInLen v hb hv
  · exact .read _ s.freeReads
  · rw [s.readWindow_frame w i]
    exact .read _ _
  · obtain hw | ⟨hb, -, hi, hw⟩ := s.writeWindow_cases w i v <;> rw [hw]
    · exact .keep
    · exact .writeIn i _ hb hi

/-- What one step of the block can do: with some turns pending, what the sequencer can or what the host can; the reset
input is the host's RESET and a poll that ends is a read. -/
theorem step_effect (s t : State) (h : step s = .next t) :
    ∃ p, SequencerEffect { s with pending := p } t ∨ HostEffect { s with pending := p } t := by
  obtain hs | ⟨rest, -, hs⟩ | ⟨op, rest, -, hop⟩ | ⟨rest, -, -, rfl⟩ | ⟨rest, -, rfl⟩ := step_cases s t h
  · exact ⟨s.pending, .inl (State.effect_of_sequence s t hs)⟩
  · exact ⟨rest, .inl (State.effect_of_sequence _ t hs)⟩
  · exact ⟨rest, .inr (State.effect_of_hostOperation _ t op hop)⟩
  · exact ⟨rest, .inr (.read _ s.freeReads)⟩
  · exact ⟨rest, .inr .reset⟩

/-- A property that does not depend on the pending turns, and that the sequencer and the host keep, is kept by every
step. -/
theorem step_keeps {P : State → Prop} (hpending : ∀ s p, P s → P { s with pending := p })
    (hsequencer : ∀ s t, P s → SequencerEffect s t → P t) (hhost : ∀ s t, P s → HostEffect s t → P t)
    (s t : State) (hs : P s) (h : step s = .next t) : P t := by
  obtain ⟨p, he | he⟩ := step_effect s t h
  · exact hsequencer _ t (hpending s p hs) he
  · exact hhost _ t (hpending s p hs) he

/-! ### What the sequencer never writes -/

/-- The sequencer leaves the input, the command, the parameters and the pending turns as they are. -/
theorem SequencerEffect.frame {s t : State} (h : SequencerEffect s t) :
    t.inBuf = s.inBuf ∧ t.cmd = s.cmd ∧ t.inLen = s.inLen ∧ t.pending = s.pending ∧ t.cfg = s.cfg := by
  cases h <;> exact ⟨rfl, rfl, rfl, rfl, rfl⟩

theorem SequencerEffect.cfg_eq {s t : State} (h : SequencerEffect s t) : t.cfg = s.cfg := by
  obtain ⟨-, -, -, -, hcfg⟩ := h.frame
  exact hcfg

theorem HostEffect.cfg_eq {s t : State} (h : HostEffect s t) : t.cfg = s.cfg := by
  cases h <;> rfl

theorem step_cfg_eq (s t : State) (h : step s = .next t) : t.cfg = s.cfg :=
  step_keeps (P := fun u => u.cfg = s.cfg) (fun _ _ hu => hu)
    (fun _ _ hu he => he.cfg_eq.trans hu) (fun _ _ hu he => he.cfg_eq.trans hu) s t rfl h

/-- Settles O47: the turn is taken by the sequencer, whose frame contains the input and the turns, and the tables are
in the frame of every agent. -/
theorem sequencerNeverWritesTheInput : Obligations.SequencerNeverWritesTheInput := by
  refine ⟨fun s u t hturn h => ?_, step_cfg_eq⟩
  rw [step_of_sequencerTurn s u hturn] at h
  obtain ⟨hin, hcmd, hlen, hpending, -⟩ := (u.effect_of_sequence t h).frame
  have hu := hturn.eq_with_pending
  rw [hin, hcmd, hlen, hpending, hu]
  exact ⟨rfl, rfl, rfl, rfl⟩

end Sys2Proof.Machine
end

section
/-!
The invariant of the block (10_state.md R22 to R36, R39, 20_memory.md R50, R65): how the end of a command keeps it, how
the reading of a symbol does, and what the host may write without breaking it.
-/
namespace Sys2Proof.Machine

section
variable {s : State}

/-- Outside DONE there is no error and nothing is visible (10_state.md R39, 60_exceptions.md R183). -/
theorem State.Inv.quiet (h : s.Inv) (hp : s.phase ≠ .done) : s.err = none ∧ s.outLen = 0 := by
  refine ⟨by_contra fun he => hp (h.errDone he), ?_⟩
  obtain hv | ⟨hd, -⟩ := h.visible
  · exact hv
  · exact absurd hd hp

/-- What is staged within the capacity leaves OBUF canonical and within its bound (20_memory.md R50, R65). -/
theorem State.Inv.staged (h : s.Inv) (v : List Sym) (hv : s.olen + v.length ≤ s.cfg.outCap) :
    (s.obuf.writeList s.olen v).wf = true ∧ (s.obuf.writeList s.olen v).below s.cfg.outCap = true :=
  ⟨Memory.wf_writeList _ _ _ h.obufWf, Memory.below_writeList _ _ _ _ hv h.obufBelow⟩

/-! ### The end of a command -/

theorem State.Inv.keep_raise (h : s.Inv) (g : Option Tag) (k : ErrKind) (pos : Nat)
    (hk : k ≠ .missingArguments) (hpos : pos ≤ s.inLen) : (State.raise { s with tag := g } k pos).Inv :=
  { h with
    busyIdxLe := nofun
    errPosLe := hpos.trans h.inLenLe
    visible := .inl rfl
    errDone := fun _ => rfl
    errRaised := by simpa using hk
    classify := nofun
    encode := nofun
    preflight := nofun
    decode := nofun }

theorem State.Inv.keep_finish (h : s.Inv) (g : Option Tag) (hp : s.phase ≠ .done) :
    (State.finish { s with tag := g }).Inv :=
  { h with
    busyIdxLe := nofun
    visible := .inr ⟨rfl, (h.quiet hp).1, rfl⟩
    errDone := fun _ => rfl
    classify := nofun
    encode := nofun
    preflight := nofun
    decode := nofun }

/-! ### The end of the classifier and the preflight -/

theorem State.Inv.keep_handOver_preflight (h : s.Inv) (hp : s.phase = .classify) (hcmd : s.cmd = .translate) :
    (State.handOver { s with tag := some .braille } .preflight).Inv := by
  obtain ⟨-, -, holen⟩ := h.classify hp
  obtain ⟨herr, hout⟩ := h.quiet (by simp [hp])
  exact { h with
    idxLe := Nat.zero_le _
    busyIdxLe := fun _ => Nat.zero_le _
    visible := .inl hout
    errDone := fun he => absurd herr he
    classify := nofun
    encode := nofun
    preflight := fun _ => ⟨.inr ⟨hcmd, rfl⟩, rfl, holen⟩
    decode := nofun }

theorem State.Inv.keep_handOver_encode (h : s.Inv) (hp : s.phase = .classify) (hcmd : s.cmd = .translate) :
    (State.handOver { s with tag := some .english } .encode).Inv := by
  obtain ⟨-, -, holen⟩ := h.classify hp
  obtain ⟨herr, hout⟩ := h.quiet (by simp [hp])
  exact { h with
    idxLe := Nat.zero_le _
    busyIdxLe := fun _ => Nat.zero_le _
    visible := .inl hout
    errDone := fun he => absurd herr he
    classify := nofun
    encode := fun _ => ⟨.inr ⟨hcmd, rfl⟩, by simp [holen], by simp [holen]⟩
    preflight := nofun
    decode := nofun }

theorem State.Inv.keep_lengthPasses (h : s.Inv) (hp : s.phase = .preflight) (hlen : s.inLen % 6 = 0) :
    State.Inv { s with phase := .decode } := by
  obtain ⟨hcmd, hidx, holen⟩ := h.preflight hp
  obtain ⟨herr, hout⟩ := h.quiet (by simp [hp])
  exact { h with
    busyIdxLe := fun _ => by simp [hidx]
    visible := .inl hout
    errDone := fun he => absurd herr he
    classify := nofun
    encode := nofun
    preflight := nofun
    decode := fun _ => ⟨hcmd, by simp [hidx], hlen, by simp [hidx, holen]⟩ }

/-! ### Reading a symbol or a cell -/

theorem State.Inv.keep_afterCls (h : s.Inv) (c : Sym) (hp : s.phase = .classify) (hidx : s.idx < s.inLen) :
    (s.afterCls c).Inv :=
  { h with
    idxLe := Nat.le_trans hidx h.inLenLe
    busyIdxLe := fun _ => hidx
    encode := fun he => nomatch hp.symm.trans he
    preflight := fun he => nomatch hp.symm.trans he
    decode := fun he => nomatch hp.symm.trans he }

/-- A character of the encoder stages at most twelve symbols, so that the capacity of OBUF is not exceeded
(20_memory.md R65). -/
theorem State.Inv.keep_afterEnc (h : s.Inv) (c : Sym) (v : List Sym) (hp : s.phase = .encode)
    (hidx : s.idx < s.inLen) (hv : v.length = 6 ∨ v.length = 12) : (s.afterEnc c v).Inv := by
  obtain ⟨hcmd, holen, hcells⟩ := h.encode hp
  have hin := h.inLenLe
  have hcap : s.olen + v.length ≤ 12 * s.cfg.inCap := by omega
  have hstaged := h.staged v hcap
  exact { h with
    obufWf := hstaged.1
    obufBelow := hstaged.2
    idxLe := Nat.le_trans hidx hin
    busyIdxLe := fun _ => hidx
    olenLe := hcap
    visible := .inl (h.quiet (by simp [hp])).2
    classify := fun he => nomatch hp.symm.trans he
    encode := fun _ => ⟨hcmd, show s.olen + v.length ≤ 12 * (s.idx + 1) by omega,
      show (s.olen + v.length) % 6 = 0 by omega⟩
    preflight := fun he => nomatch hp.symm.trans he
    decode := fun he => nomatch hp.symm.trans he }

/-- A cell of the decoder stages at most one symbol, and the next one begins at a multiple of six (20_memory.md R54). -/
theorem State.Inv.keep_afterDec (h : s.Inv) (g v : List Sym) (hp : s.phase = .decode)
    (hidx : s.idx + 6 ≤ s.inLen) (hv : v.length ≤ 1) : (s.afterDec g v).Inv := by
  obtain ⟨hcmd, halign, hlen, holen⟩ := h.decode hp
  have hin := h.inLenLe
  have hcap : s.olen + v.length ≤ 12 * s.cfg.inCap := by omega
  have hstaged := h.staged v hcap
  exact { h with
    obufWf := hstaged.1
    obufBelow := hstaged.2
    idxLe := Nat.le_trans hidx hin
    busyIdxLe := fun _ => hidx
    olenLe := hcap
    visible := .inl (h.quiet (by simp [hp])).2
    classify := fun he => nomatch hp.symm.trans he
    encode := fun he => nomatch hp.symm.trans he
    preflight := fun he => nomatch hp.symm.trans he
    decode := fun _ => ⟨hcmd, show (s.idx + 6) % 6 = 0 by omega, hlen,
      show 6 * (s.olen + v.length) ≤ s.idx + 6 by omega⟩ }

/-! ### The host -/

/-- The pending turns and the read port are outside the invariant. -/
theorem State.Inv.keep_port (h : s.Inv) (p : List Turn) (r f : Nat) :
    State.Inv { s with pending := p, readData := r, freeReads := f } :=
  { h with }

/-- START begins the command with nothing read and nothing staged (43_dispatch.md R161). -/
theorem State.Inv.keep_start (h : s.Inv) : State.Inv { s.startInit with phase := s.cmd.firstPhase } :=
  { h with
    idxLe := Nat.zero_le _
    busyIdxLe := fun _ => Nat.zero_le _
    errPosLe := Nat.zero_le _
    olenLe := Nat.zero_le _
    visible := .inl rfl
    errDone := fun he => absurd rfl he
    errRaised := nofun
    classify := fun hp => ⟨(Cmd.firstPhase_eq_classify_iff _).mp hp, rfl, rfl⟩
    encode := fun hp => ⟨.inl ⟨(Cmd.firstPhase_eq_encode_iff _).mp hp, rfl⟩, Nat.zero_le _, rfl⟩
    preflight := fun hp => ⟨.inl ⟨(Cmd.firstPhase_eq_preflight_iff _).mp hp, rfl⟩, rfl, rfl⟩
    decode := fun hp => absurd hp (Cmd.firstPhase_ne_decode _) }

theorem State.Inv.keep_reset (h : s.Inv) : s.resetRegs.Inv :=
  { h with
    inLenLe := Nat.zero_le _
    idxLe := Nat.zero_le _
    busyIdxLe := nofun
    errPosLe := Nat.zero_le _
    olenLe := Nat.zero_le _
    visible := .inl rfl
    errDone := fun he => absurd rfl he
    errRaised := nofun
    classify := nofun
    encode := nofun
    preflight := nofun
    decode := nofun }

/-- What the host may write while the block is not busy: any command, an input length up to IN_CAP and any canonical
input within IN_CAP (10_state.md R29, R30, R38). -/
theorem State.Inv.keep_input (h : s.Inv) (hb : s.phase.busy = false) (c : Cmd) (n : Nat) (m : Memory)
    (hn : n ≤ s.cfg.inCap) (hwf : m.wf = true) (hbelow : m.below s.cfg.inCap = true) :
    State.Inv { s with cmd := c, inLen := n, inBuf := m } :=
  have not_in : ∀ {q : Phase} {A : Prop}, s.phase = q → q.busy = true → A :=
    fun hp hq => absurd (hp ▸ hq) (ne_true_of_eq_false hb)
  { h with
    inWf := hwf
    inBelow := hbelow
    inLenLe := hn
    busyIdxLe := not_in rfl
    classify := fun hp => not_in hp rfl
    encode := fun hp => not_in hp rfl
    preflight := fun hp => not_in hp rfl
    decode := fun hp => not_in hp rfl }

end

/-! ### Every step -/

theorem State.Inv.keep_sequencer (s t : State) (h : s.Inv) (he : SequencerEffect s t) : t.Inv := by
  cases he with
  | keep => exact h
  | classifyRead hp hidx => exact h.keep_afterCls _ hp hidx
  | classifyFinish hp => exact h.keep_finish _ (by simp [hp])
  | translateBraille hp hcmd => exact h.keep_handOver_preflight hp hcmd
  | translateEnglish hp hcmd => exact h.keep_handOver_encode hp hcmd
  | translateOther => exact h.keep_raise _ _ _ (by decide) (le_refl _)
  | encodeRead v hp hidx hv => exact h.keep_afterEnc _ v hp hidx hv
  | finish hp => exact h.keep_finish s.tag (by obtain hp | hp := hp <;> simp [hp])
  | lengthPasses hp hlen => exact h.keep_lengthPasses hp hlen
  | decodeRead v hp hidx hv => exact h.keep_afterDec _ v hp hidx hv
  | raise k pos hk hpos => exact h.keep_raise s.tag k pos hk hpos

theorem State.Inv.keep_host (s t : State) (h : s.Inv) (he : HostEffect s t) : t.Inv := by
  cases he with
  | keep => exact h
  | read r f => exact h.keep_port s.pending r f
  | writeCmd c hb => exact h.keep_input hb c _ _ h.inLenLe h.inWf h.inBelow
  | writeInLen n hb hn => exact h.keep_input hb _ n _ hn h.inWf h.inBelow
  | writeIn i v hb hi =>
    exact h.keep_input hb _ _ _ h.inLenLe (Memory.wf_write _ i v h.inWf) (Memory.below_write _ _ i v hi h.inBelow)
  | start => exact h.keep_start
  | reset => exact h.keep_reset

/-- Settles O49: the sequencer and the host keep the invariant, which says nothing of the pending turns. -/
theorem everyStepKeepsTheInvariant : Obligations.EveryStepKeepsTheInvariant :=
  step_keeps (fun s p h => h.keep_port p s.readData s.freeReads) State.Inv.keep_sequencer State.Inv.keep_host

end Sys2Proof.Machine
end

section
/-!
What the flags record of the input read so far (10_state.md R24 to R27): the reading of one more symbol or cell, and
every step.
-/
namespace Sys2Proof.Machine

/-! ### The input read, one symbol or cell longer -/

theorem State.memRead_succ (s : State) (i n : Nat) : s.memRead i (n + 1) = s.memRead i n ++ [s.inAt (i + n)] :=
  s.memRead_append i n 1

@[simp] theorem State.afterCls_memRead (s : State) (c : Sym) (i n : Nat) :
    (s.afterCls c).memRead i n = s.memRead i n := s.memRead_congr (s.afterCls c) rfl i n

@[simp] theorem State.afterEnc_inAt (s : State) (c : Sym) (v : List Sym) (i : Nat) :
    (s.afterEnc c v).inAt i = s.inAt i := rfl

@[simp] theorem State.afterDec_memRead (s : State) (g v : List Sym) (i n : Nat) :
    (s.afterDec g v).memRead i n = s.memRead i n := s.memRead_congr (s.afterDec g v) rfl i n

/-- Among the first `n` cells of the input one is NUMBER_FOLLOWS and no later one is the space cell (10_state.md R26). -/
def State.NumberMode (s : State) (n : Nat) : Prop :=
  ∃ k, k < n ∧ s.inputCell k = cellStr numCell ∧ ∀ j, j < n → k < j → s.inputCell j ≠ cellStr spaceCell

@[simp] theorem State.afterDec_numberMode (s : State) (g v : List Sym) (n : Nat) :
    (s.afterDec g v).NumberMode n ↔ s.NumberMode n := by
  simp only [State.NumberMode, State.inputCell, State.afterDec_memRead]

/-- One cell more: NUMBER_FOLLOWS enters number mode, the space cell leaves it, any other cell keeps it. -/
theorem State.numberMode_succ (s : State) (n : Nat) :
    s.NumberMode (n + 1) ↔
      s.inputCell n = cellStr numCell ∨ (s.inputCell n ≠ cellStr spaceCell ∧ s.NumberMode n) := by
  constructor
  · rintro ⟨k, hk, hnum, hlater⟩
    obtain hlt | rfl := Nat.lt_succ_iff_lt_or_eq.mp hk
    · exact .inr ⟨hlater n (Nat.lt_succ_self n) hlt, k, hlt, hnum, fun j hj => hlater j (Nat.lt_succ_of_lt hj)⟩
    · exact .inl hnum
  · rintro (hnum | ⟨hspace, k, hk, hnum, hlater⟩)
    · exact ⟨n, Nat.lt_succ_self n, hnum, fun j hj hnj => by omega⟩
    · refine ⟨k, Nat.lt_succ_of_lt hk, hnum, fun j hj hkj => ?_⟩
      obtain hlt | rfl := Nat.lt_succ_iff_lt_or_eq.mp hj
      · exact hlater j hlt hkj
      · exact hspace

/-! ### Each kind of step -/

section
variable {s : State}

/-- The flags are meant only while the block is busy. -/
theorem State.flagsTrack_of_not_busy (hb : s.phase.busy = false) : s.FlagsTrack := by
  constructor <;> intro hp <;> rw [hp] at hb <;> cases hb

/-- The meaning of the flags speaks of PHASE, IDX, IN, the tables and the flags alone. -/
theorem State.FlagsTrack.keep_port (h : s.FlagsTrack) (p : List Turn) (r f : Nat) :
    State.FlagsTrack { s with pending := p, readData := r, freeReads := f } := by
  have hread := s.memRead_congr { s with pending := p, readData := r, freeReads := f } rfl
  constructor <;> simp only [State.inputCell, hread]
  · exact h.classify
  · exact h.encode
  · exact h.preflight
  · exact h.decode

theorem State.FlagsTrack.keep_afterCls (h : s.FlagsTrack) (hp : s.phase = .classify) :
    (s.afterCls (s.inAt s.idx)).FlagsTrack where
  classify _ := by
    obtain ⟨-, hb, he, hrest⟩ := h.classify hp
    have hread : (s.afterCls (s.inAt s.idx)).memRead 0 (s.idx + 1) = s.memRead 0 s.idx ++ [s.inAt s.idx] := by
      rw [State.afterCls_memRead, State.memRead_succ, Nat.zero_add]
    refine ⟨(decide_eq_true (Nat.succ_pos s.idx)).symm, ?_, ?_, hrest⟩
    · change (s.clsB && isBraille (s.inAt s.idx)) = List.all (State.memRead _ 0 (s.idx + 1)) _
      rw [hread, hb, List.all_append, List.all_cons, List.all_nil, Bool.and_true]
    · change (s.clsE && isEnglish s.cfg (s.inAt s.idx)) = List.all (State.memRead _ 0 (s.idx + 1)) _
      rw [hread, he, List.all_append, List.all_cons, List.all_nil, Bool.and_true]
      rfl
  encode he := nomatch hp.symm.trans he
  preflight he := nomatch hp.symm.trans he
  decode he := nomatch hp.symm.trans he

theorem State.FlagsTrack.keep_afterEnc (hp : s.phase = .encode) (v : List Sym) :
    (s.afterEnc (s.inAt s.idx) v).FlagsTrack where
  classify he := nomatch hp.symm.trans he
  encode _ := by
    rw [State.afterEnc_inAt]
    simp [State.afterEnc]
  preflight he := nomatch hp.symm.trans he
  decode he := nomatch hp.symm.trans he

theorem State.FlagsTrack.keep_handOver_preflight (h : s.FlagsTrack) (hp : s.phase = .classify) (g : Option Tag) :
    (State.handOver { s with tag := g } .preflight).FlagsTrack where
  classify := nofun
  encode := nofun
  preflight _ := by
    obtain ⟨-, -, -, -, hcap, hnum⟩ := h.classify hp
    exact ⟨rfl, hcap, hnum⟩
  decode := nofun

theorem State.FlagsTrack.keep_handOver_encode (h : s.FlagsTrack) (hp : s.phase = .classify) (g : Option Tag) :
    (State.handOver { s with tag := g } .encode).FlagsTrack where
  classify := nofun
  encode _ := by
    obtain ⟨-, -, -, hnum, -, -⟩ := h.classify hp
    exact hnum
  preflight := nofun
  decode := nofun

theorem State.FlagsTrack.keep_lengthPasses (h : s.FlagsTrack) (hp : s.phase = .preflight) :
    State.FlagsTrack { s with phase := .decode } where
  classify := nofun
  encode := nofun
  preflight := nofun
  decode _ := by
    obtain ⟨hidx, hcap, hnum⟩ := h.preflight hp
    exact ⟨by simp [hidx], by simp [hidx, hcap], by simp [hidx, hnum]⟩

theorem State.FlagsTrack.keep_afterDec (h : s.FlagsTrack) (hp : s.phase = .decode) (v : List Sym) :
    (s.afterDec (s.memRead s.idx 6) v).FlagsTrack where
  classify he := nomatch hp.symm.trans he
  encode he := nomatch hp.symm.trans he
  preflight he := nomatch hp.symm.trans he
  decode _ := by
    obtain ⟨halign, -, hnum⟩ := h.decode hp
    have hcell : s.inputCell (s.idx / 6) = s.memRead s.idx 6 := by
      rw [State.inputCell, show 6 * (s.idx / 6) = s.idx by omega]
    refine ⟨?_, ?_, ?_⟩
    · simp [State.afterDec, halign]
    · rw [State.afterDec_memRead]
      simp [State.afterDec]
    · change _ ↔ State.NumberMode _ ((s.idx + 6) / 6)
      rw [State.afterDec_numberMode, show (s.idx + 6) / 6 = s.idx / 6 + 1 by omega, s.numberMode_succ, hcell]
      have hmode : s.decNum = true ↔ s.NumberMode (s.idx / 6) := hnum
      simp [State.afterDec, hmode]

theorem State.flagsTrack_start : State.FlagsTrack { s.startInit with phase := s.cmd.firstPhase } where
  classify _ := ⟨rfl, rfl, rfl, rfl, rfl, rfl⟩
  encode _ := rfl
  preflight _ := ⟨rfl, rfl, rfl⟩
  decode hp := absurd hp (Cmd.firstPhase_ne_decode _)

end

/-! ### Every step -/

theorem State.FlagsTrack.keep_sequencer (s t : State) (h : s.FlagsTrack) (he : SequencerEffect s t) :
    t.FlagsTrack := by
  cases he with
  | keep => exact h
  | classifyRead hp => exact h.keep_afterCls hp
  | translateBraille hp => exact h.keep_handOver_preflight hp _
  | translateEnglish hp => exact h.keep_handOver_encode hp _
  | encodeRead v hp => exact State.FlagsTrack.keep_afterEnc hp v
  | lengthPasses hp => exact h.keep_lengthPasses hp
  | decodeRead v hp => exact h.keep_afterDec hp v
  | classifyFinish | translateOther | finish | raise => exact State.flagsTrack_of_not_busy rfl

theorem State.FlagsTrack.keep_host (s t : State) (h : s.FlagsTrack) (he : HostEffect s t) : t.FlagsTrack := by
  cases he with
  | keep => exact h
  | read r f => exact h.keep_port s.pending r f
  | writeCmd _ hb | writeInLen _ hb | writeIn _ _ hb => exact State.flagsTrack_of_not_busy hb
  | start => exact State.flagsTrack_start
  | reset => exact State.flagsTrack_of_not_busy rfl

/-- Settles O51: the sequencer and the host keep the meaning of the flags, which says nothing of the pending turns. -/
theorem everyStepKeepsTheFlagsMeaning : Obligations.EveryStepKeepsTheFlagsMeaning :=
  step_keeps (fun s p h => h.keep_port p s.readData s.freeReads) State.FlagsTrack.keep_sequencer
    State.FlagsTrack.keep_host

end Sys2Proof.Machine
end

section
/-!
The registers and windows as the host reads and writes them (10_state.md R31 to R39), whose turn it is, and the state
after reset (R41).
-/
namespace Sys2Proof.Machine

/-! ### CTRL -/

theorem hostOperation_writeCtrl (s : State) (v : BitVec 2) :
    hostOperation (.writeReg 2 v.toNat) s = exec (decodeCtrl v) s := by
  simp only [hostOperation, if_true, BitVec.ofNat_toNat, BitVec.setWidth_eq]

theorem decodeCtrl_of_reset (v : BitVec 2) (h : v.getLsbD 1 = true) : decodeCtrl v = .ctrlReset (v.getLsbD 0) :=
  if_pos h

theorem decodeCtrl_of_not_reset (v : BitVec 2) (h : v.getLsbD 1 = false) :
    decodeCtrl v = if v.getLsbD 0 then .ctrlStart else .ctrlNone := if_neg (ne_true_of_eq_false h)

/-- Settles O37, by the two bits of the value: bit 1 before bit 0. -/
theorem ctrlWriteStartsOrResets : Obligations.CtrlWriteStartsOrResets := by
  refine ⟨fun s v => ⟨fun h1 => ?_, fun h1 h0 => ?_, fun h1 h0 => ⟨?_, rfl⟩⟩, fun s => rfl⟩ <;>
    rw [hostOperation_writeCtrl]
  · rw [decodeCtrl_of_reset v h1]
  · rw [decodeCtrl_of_not_reset v h1, h0, if_pos rfl]
  · rw [decodeCtrl_of_not_reset v h1, h0, if_neg Bool.false_ne_true]

/-! ### STATUS and FLAGS -/

/-- The three fields of an eight-bit register laid out as STATUS is (10_state.md R32). -/
theorem extract_of_append (e : BitVec 3) (g : BitVec 2) (p : BitVec 3) :
    (e ++ g ++ p).extractLsb' 0 3 = p ∧ (e ++ g ++ p).extractLsb' 3 2 = g ∧ (e ++ g ++ p).extractLsb' 5 3 = e := by
  refine ⟨BitVec.extractLsb'_append_eq_right, ?_, ?_⟩
  · rw [BitVec.extractLsb'_append_eq_of_le (by decide)]
    exact BitVec.extractLsb'_append_eq_right
  · rw [BitVec.extractLsb'_append_eq_of_le (by decide)]
    exact BitVec.extractLsb'_append_eq_left

/-- Settles O39: the codes are values, and the fields of the two views are those they are put together from. -/
theorem statusAndFlagsBits : Obligations.StatusAndFlagsBits := by
  refine ⟨by decide, by decide, by decide, by decide, fun s => ?_⟩
  obtain ⟨hphase, htag, herr⟩ := extract_of_append (errCode s.err) (tagCode s.tag) s.phase.code
  exact ⟨hphase, htag, herr, packCell_getLsbD s.clsSeen s.clsE s.clsB s.decNum s.decCap s.encNum⟩

/-! ### The windows -/

theorem State.readWindow_in (s : State) (i : Nat) :
    s.readWindow 16 i = s.returns (if i < s.cfg.inCap then (s.inAt i).toNat else 0) := rfl

theorem State.readWindow_out (s : State) (k : Nat) : s.readWindow 17 k = s.readOut k := rfl

theorem State.readWindow_other (s : State) (w i : Nat) (hin : w ≠ 16) (hout : w ≠ 17) :
    s.readWindow w i = s.returns 0 := by
  rw [State.readWindow, if_neg hin, if_neg hout]

theorem State.readOut_below (s : State) (k : Nat) (v : Sym) (hcap : k < s.cfg.outCap) (hlen : k < s.outLen)
    (h : s.obuf.read k = some v) : s.readOut k = s.returns v.toNat := by
  simp only [State.readOut, hcap, hlen, h, if_true]

theorem State.readOut_free (s : State) (k : Nat) (hcap : k < s.cfg.outCap) (hlen : s.outLen ≤ k) :
    s.readOut k = { s.returns (Config.freeOut s.freeReads).toNat with freeReads := s.freeReads + 1 } := by
  simp only [State.readOut, hcap, Nat.not_lt.mpr hlen, if_true, if_false]

theorem State.readOut_past (s : State) (k : Nat) (hcap : s.cfg.outCap ≤ k) : s.readOut k = s.returns 0 :=
  if_neg (Nat.not_lt.mpr hcap)

/-- Settles O43: the window number selects the buffer, and the index its region. -/
theorem windowReadsFollowTheMap : Obligations.WindowReadsFollowTheMap := by
  intro s
  refine ⟨fun k v hcap hlen h => ?_, fun k hcap hlen => ?_, fun k hcap => ?_, fun i hi => ?_, fun i hi => ?_,
    fun w i hin hout => ?_⟩ <;> rw [hostOperation]
  · rw [s.readWindow_out, s.readOut_below k v hcap hlen h]; rfl
  · rw [s.readWindow_out, s.readOut_free k hcap hlen]; rfl
  · rw [s.readWindow_out, s.readOut_past k hcap]; rfl
  · rw [s.readWindow_in, if_pos hi]; rfl
  · rw [s.readWindow_in, if_neg (Nat.not_lt.mpr hi)]; rfl
  · rw [s.readWindow_other w i hin hout]; rfl

/-! ### Whose turn it is -/

/-- Settles O45, by the first pending turn; the sequencer's own turns are those of `State.SequencerTurn`. That a poll
and the reset input are turns, and that the reset input acts as RESET does, is the model's reading (log 7, log 21). -/
theorem turnsAreTakenInOrder : Obligations.TurnsAreTakenInOrder := by
  intro s rest
  refine ⟨fun h => step_of_sequencerTurn s s (.free s h), fun h => step_of_sequencerTurn s _ (.run s rest h),
    fun op h => ?_, fun h hdone => ?_, fun h hdone => step_of_sequencerTurn s s (.poll s rest h hdone), fun h => ?_⟩
  · simp only [step, takeTurn, h]
  · simp only [step, takeTurn, h]
    exact if_pos hdone
  · simp only [step, takeTurn, h]
    rfl

/-! ### Reset -/

/-- Settles O46: the reset state is a literal, and its two views are computed from it. -/
theorem resetStateHasTheListedValues : Obligations.ResetStateHasTheListedValues := by
  refine ⟨rfl, rfl, rfl, rfl, rfl, rfl, rfl, rfl, rfl, rfl, rfl, rfl, rfl, rfl, rfl, ?_, ?_⟩ <;> decide

/-- The capacity of the shipped block is a successor and its letter table the spec's default (log 2, log 3). -/
theorem implementation_valid : implementation.valid = true := by
  have hcap : 1 ≤ implementation.inCap := Nat.succ_pos _
  have hlut : implementation.lutValid = true := by decide
  rw [Config.valid, hlut, decide_eq_true hcap]
  rfl

theorem reset_inv : State.reset.Inv where
  cfgValid := implementation_valid
  inWf := reset_memory_wf.1
  inBelow := rfl
  obufWf := reset_memory_wf.2
  obufBelow := rfl
  inLenLe := Nat.zero_le _
  idxLe := Nat.zero_le _
  busyIdxLe := nofun
  errPosLe := Nat.zero_le _
  olenLe := Nat.zero_le _
  visible := .inl rfl
  errDone h := absurd rfl h
  errRaised := nofun
  classify := nofun
  encode := nofun
  preflight := nofun
  decode := nofun

/-- Settles O48: the parameters are legal, every register is 0, and no flag has a meaning in IDLE. -/
theorem invariantHoldsAtReset : Obligations.InvariantHoldsAtReset :=
  ⟨reset_inv, State.flagsTrack_of_not_busy rfl⟩

end Sys2Proof.Machine
end

section
/-!
The registers of the map as the host reads them (20_memory.md R58), and the busy rule for what the host writes (R63).
-/
namespace Sys2Proof.Machine

/-! ### Reading the registers -/

/-- A read returns the value of the register and writes no field but the one of the read port (43_dispatch.md R170). -/
theorem hostOperation_readReg (s : State) (n : Nat) :
    hostOperation (.readReg n) s = .next { s with readData := s.regValue n } := rfl

/-- CTRL, and the numbers from 7 on, read as 0. -/
theorem State.regValue_of_ctrl_or_reserved (s : State) (n : Nat) (h : n = 2 ∨ 7 ≤ n) : s.regValue n = 0 := by
  unfold State.regValue
  obtain rfl | hn := h
  · rfl
  · split <;> omega

theorem hostOperation_readCmd (s : State) (c : Cmd) (h : s.cmd = c) :
    hostOperation (.readReg 0) s = .next { s with readData := c.code.toNat } := by
  rw [hostOperation_readReg, ← h]
  rfl

/-- Settles O40, by the register number: a number with a register reads as that register, CMD as the code of its
command, and every other number as 0. The field `readData` is the model's own (log 12). -/
theorem registerReadsFollowTheMap : Obligations.RegisterReadsFollowTheMap := by
  intro s
  have read := hostOperation_readReg s
  refine ⟨read 0, hostOperation_readCmd s .translate, hostOperation_readCmd s .encode,
    hostOperation_readCmd s .decode, hostOperation_readCmd s .classify, read 1, read 3, read 4, read 5, read 6,
    fun n hn => ?_⟩
  rw [read n, s.regValue_of_ctrl_or_reserved n hn]

/-! ### Writing while busy -/

theorem Phase.busy_of_ne (p : Phase) (hidle : p ≠ .idle) (hdone : p ≠ .done) : p.busy = true := by
  rw [← Bool.not_eq_false, Phase.busy_eq_false_iff]
  exact not_or.mpr ⟨hidle, hdone⟩

theorem State.writeReg_of_busy (s : State) (n v : Nat) (h : s.phase.busy = true) : s.writeReg n v = s := if_pos h

theorem State.writeWindow_of_busy (s : State) (w i v : Nat) (h : s.phase.busy = true) : s.writeWindow w i v = s :=
  if_pos h

theorem exec_ctrlStart_of_busy (s : State) (h : s.phase.busy = true) : exec .ctrlStart s = .next s := if_pos h

/-- Without the bit of RESET a write of CTRL starts nothing in a busy block. -/
theorem exec_decodeCtrl_of_busy (s : State) (v : BitVec 2) (h : s.phase.busy = true) (hreset : v.getLsbD 1 = false) :
    exec (decodeCtrl v) s = .next s := by
  rw [decodeCtrl_of_not_reset v hreset]
  split_ifs
  · exact exec_ctrlStart_of_busy s h
  · rfl

/-- Settles O41, by the kind of write: a window, a register other than CTRL, and CTRL without RESET. -/
theorem writesWhileBusyAreIgnored : Obligations.WritesWhileBusyAreIgnored := by
  intro s hidle hdone
  have hbusy : s.phase.busy = true := s.phase.busy_of_ne hidle hdone
  refine ⟨fun w i v => ?_, fun n v hn => ?_, fun v hreset => ?_⟩
  · rw [hostOperation, s.writeWindow_of_busy w i v hbusy]
  · rw [hostOperation, if_neg hn, s.writeReg_of_busy n v hbusy]
  · rw [hostOperation_writeCtrl, exec_decodeCtrl_of_busy s v hbusy hreset]

end Sys2Proof.Machine
end

section
/-!
The letter table and the two reverse tables (30_encoding.md R74 to R79, R85): what a legal table gives, the five entries
of a reverse letter table as cases, and the number of patterns that have an entry.
-/
namespace Sys2Proof.Machine

/-! ### Legal letter tables -/

/-- A cell that is none of the three named ones (30_encoding.md R74). -/
def Unnamed (b : Cell) : Prop := b ≠ spaceCell ∧ b ≠ capCell ∧ b ≠ numCell

/-- The Boolean check of a letter table, as a proposition (30_encoding.md R79, 00_scope.md R8). -/
theorem lutValid_iff (cfg : Config) : cfg.lutValid = true ↔
    Function.Injective (letterCell cfg) ∧ (∀ i, Unnamed (letterCell cfg i)) ∧
    letterCell cfg 0 = 0x20 ∧ letterCell cfg 1 = 0x28 ∧ letterCell cfg 2 = 0x30 ∧ letterCell cfg 3 = 0x34 ∧
    letterCell cfg 9 = 0x1C := by
  have hinj : Function.Injective (letterCell cfg) ↔ ∀ i j, i = j ∨ ¬ letterCell cfg i = letterCell cfg j :=
    ⟨fun h i j => Classical.or_iff_not_imp_right.mpr fun he => h (not_not.mp he),
      fun h i j he => (h i j).resolve_right (not_not.mpr he)⟩
  simp only [Config.lutValid, Bool.and_eq_true, List.all_eq_true, List.mem_finRange, forall_const, Bool.or_eq_true,
    Bool.not_eq_true', beq_iff_eq, beq_eq_false_iff_ne, forall_and, Unnamed, hinj, and_assoc, ne_eq]

theorem letterCell_injective (cfg : Config) (h : cfg.lutValid = true) : Function.Injective (letterCell cfg) := by
  obtain ⟨hinj, -⟩ := (lutValid_iff cfg).mp h
  exact hinj

theorem letterCell_unnamed (cfg : Config) (h : cfg.lutValid = true) (i : Fin 26) : Unnamed (letterCell cfg i) := by
  obtain ⟨-, hunnamed, -⟩ := (lutValid_iff cfg).mp h
  exact hunnamed i

/-- No two digits share a letter (30_encoding.md R76). -/
theorem digitLetter_injective : Function.Injective digitLetter := by
  intro d e h
  have hval : (d.val + 9) % 10 = (e.val + 9) % 10 := congrArg Fin.val h
  omega

theorem digitCell_injective (cfg : Config) (h : cfg.lutValid = true) : Function.Injective (digitCell cfg) :=
  (letterCell_injective cfg h).comp digitLetter_injective

theorem digitCell_unnamed (cfg : Config) (h : cfg.lutValid = true) (d : Fin 10) : Unnamed (digitCell cfg d) :=
  letterCell_unnamed cfg h (digitLetter d)

/-- Settles O6: the strings are read by evaluation, and that letters and digits have other cells is part of the check of
the letter table. -/
theorem namedCellsAreDistinct : Obligations.NamedCellsAreDistinct :=
  ⟨rfl, rfl, rfl, rfl, rfl, rfl, by decide, by decide, by decide,
    fun cfg h => ⟨letterCell_unnamed cfg h, digitCell_unnamed cfg h⟩⟩

/-- Settles O7: the digit table is defined by this index, and its default rows are read from the default letter table
(log 3). -/
theorem digitTableIsTheFirstTenLetters : Obligations.DigitTableIsTheFirstTenLetters := by
  refine ⟨fun cfg d i hi => ?_, by decide⟩
  have hletter : digitLetter d = i := Fin.ext hi.symm
  rw [digitCell, hletter]

/-! ### The reverse tables -/

/-- Every entry of the reverse letter table, for any letter table (30_encoding.md R77). -/
theorem revLet_cases (cfg : Config) (b : Cell) :
    (b = spaceCell ∧ revLet cfg b = .space) ∨
    (b = capCell ∧ revLet cfg b = .cap) ∨
    (b = numCell ∧ revLet cfg b = .num) ∨
    (Unnamed b ∧ ∃ i, letterCell cfg i = b ∧ revLet cfg b = .letter i) ∨
    (Unnamed b ∧ (∀ i, letterCell cfg i ≠ b) ∧ revLet cfg b = .none) := by
  unfold revLet
  split_ifs with hs hc hn
  · exact .inl ⟨hs, rfl⟩
  · exact .inr (.inl ⟨hc, rfl⟩)
  · exact .inr (.inr (.inl ⟨hn, rfl⟩))
  · cases hf : (List.finRange 26).find? fun i => letterCell cfg i == b with
    | some i => exact .inr (.inr (.inr (.inl ⟨⟨hs, hc, hn⟩, i, by simpa using List.find?_some hf, rfl⟩)))
    | none => exact .inr (.inr (.inr (.inr ⟨⟨hs, hc, hn⟩, by simpa using hf, rfl⟩)))

/-- The entry of a named cell is its name, and no other cell has that entry. -/
theorem revLet_eq_named_iff (cfg : Config) (b : Cell) :
    (revLet cfg b = .space ↔ b = spaceCell) ∧ (revLet cfg b = .cap ↔ b = capCell) ∧
    (revLet cfg b = .num ↔ b = numCell) := by
  obtain ⟨rfl, h⟩ | ⟨rfl, h⟩ | ⟨rfl, h⟩ | ⟨⟨hs, hc, hn⟩, i, -, h⟩ | ⟨⟨hs, hc, hn⟩, -, h⟩ := revLet_cases cfg b
  case inr.inr.inr.inl | inr.inr.inr.inr => simp [h, hs, hc, hn]
  all_goals
    rw [h]
    decide

theorem revLet_eq_none_iff (cfg : Config) (b : Cell) :
    revLet cfg b = .none ↔ Unnamed b ∧ ∀ i, letterCell cfg i ≠ b := by
  obtain ⟨rfl, h⟩ | ⟨rfl, h⟩ | ⟨rfl, h⟩ | ⟨hu, i, hi, h⟩ | ⟨hu, hne, h⟩ := revLet_cases cfg b
  case inr.inr.inr.inl => simpa [h, hu] using ⟨i, hi⟩
  case inr.inr.inr.inr => simpa [h, hu] using hne
  all_goals simp [h, Unnamed]

theorem letterCell_of_revLet (cfg : Config) (b : Cell) (i : Fin 26) (h : revLet cfg b = .letter i) :
    letterCell cfg i = b := by
  obtain ⟨-, hr⟩ | ⟨-, hr⟩ | ⟨-, hr⟩ | ⟨-, j, hj, hr⟩ | ⟨-, -, hr⟩ := revLet_cases cfg b <;> rw [hr] at h <;> cases h
  exact hj

/-- An unnamed cell has the entry of a letter or none. -/
theorem revLet_cases_of_unnamed (cfg : Config) (b : Cell) (h : Unnamed b) :
    (∃ i, letterCell cfg i = b ∧ revLet cfg b = .letter i) ∨
    ((∀ i, letterCell cfg i ≠ b) ∧ revLet cfg b = .none) := by
  obtain ⟨hs, hc, hn⟩ := h
  obtain ⟨hb, -⟩ | ⟨hb, -⟩ | ⟨hb, -⟩ | ⟨-, h⟩ | ⟨-, h⟩ := revLet_cases cfg b
  · exact absurd hb hs
  · exact absurd hb hc
  · exact absurd hb hn
  · exact .inl h
  · exact .inr h

theorem revLet_letterCell (cfg : Config) (h : cfg.lutValid = true) (i : Fin 26) :
    revLet cfg (letterCell cfg i) = .letter i := by
  obtain ⟨j, hj, hr⟩ | ⟨hne, -⟩ := revLet_cases_of_unnamed cfg _ (letterCell_unnamed cfg h i)
  · rw [hr, letterCell_injective cfg h hj]
  · exact absurd rfl (hne i)

/-- Settles O8, entry by entry; only that a letter's cell leads back to the same letter needs a legal table. -/
theorem reverseLetterTableInverts : Obligations.ReverseLetterTableInverts := by
  intro cfg h
  have hnamed := revLet_eq_named_iff cfg
  simp only [forall_and] at hnamed
  obtain ⟨hspace, hcap, hnum⟩ := hnamed
  refine ⟨fun b i => ⟨letterCell_of_revLet cfg b i, ?_⟩, hspace, hcap, hnum, fun b => ?_⟩
  · rintro rfl
    exact revLet_letterCell cfg h i
  · rw [revLet_eq_none_iff, Unnamed, and_assoc, and_assoc]

theorem revDig_eq_none_iff (cfg : Config) (b : Cell) : revDig cfg b = none ↔ ∀ d, digitCell cfg d ≠ b := by
  simp [revDig]

theorem digitCell_of_revDig (cfg : Config) (b : Cell) (d : Fin 10) (h : revDig cfg b = some d) :
    digitCell cfg d = b := by
  simpa using List.find?_some h

theorem revDig_digitCell (cfg : Config) (h : cfg.lutValid = true) (d : Fin 10) :
    revDig cfg (digitCell cfg d) = some d := by
  cases hr : revDig cfg (digitCell cfg d) with
  | none => exact absurd rfl ((revDig_eq_none_iff cfg _).mp hr d)
  | some e => rw [digitCell_injective cfg h (digitCell_of_revDig cfg _ e hr)]

theorem revDig_isSome_iff (cfg : Config) (b : Cell) :
    (revDig cfg b).isSome = true ↔ ∃ d, digitCell cfg d = b := by
  rw [Option.isSome_iff_ne_none, ne_eq, revDig_eq_none_iff]
  simp

/-! ### How many patterns have an entry -/

/-- Among the 64 patterns, those with a property that exactly the values of an injective table have are as many as the
table has places. -/
theorem length_filter_cells_of_injective {α : Type} [Fintype α] (f : α → Cell)
    (hf : Function.Injective f) (p : Cell → Bool) (hp : ∀ b, p b = true ↔ ∃ a, f a = b) :
    ((List.finRange 64).filter fun n => p (BitVec.ofFin n)).length = Fintype.card α := by
  have hinj : Function.Injective fun a => (f a).toFin := fun a b h => hf (BitVec.toFin_inj.mp h)
  have himage : (Finset.univ.filter fun n : Fin 64 => p (BitVec.ofFin n) = true) =
      Finset.univ.image fun a => (f a).toFin := by
    ext n
    simp only [Finset.mem_filter, Finset.mem_univ, true_and, Finset.mem_image, hp]
    exact exists_congr fun a => ⟨congrArg BitVec.toFin, congrArg BitVec.ofFin⟩
  calc ((List.finRange 64).filter fun n => p (BitVec.ofFin n)).length
      = (Finset.univ.filter fun n : Fin 64 => p (BitVec.ofFin n) = true).card :=
        congrArg List.length (List.filter_congr fun n _ => Bool.decide_eq_true.symm)
    _ = Fintype.card α := by rw [himage, Finset.card_image_of_injective _ hinj, Finset.card_univ]

/-- The patterns with an entry in the reverse letter table: the three named cells and the 26 letters. -/
def assignedCell (cfg : Config) : Fin 3 ⊕ Fin 26 → Cell :=
  Sum.elim ![spaceCell, capCell, numCell] (letterCell cfg)

theorem assignedCell_injective (cfg : Config) (h : cfg.lutValid = true) : Function.Injective (assignedCell cfg) := by
  refine Function.Injective.sumElim (by decide) (letterCell_injective cfg h) fun k i => ?_
  obtain ⟨hs, hc, hn⟩ := letterCell_unnamed cfg h i
  fin_cases k
  · exact hs.symm
  · exact hc.symm
  · exact hn.symm

theorem exists_assignedCell_iff (cfg : Config) (b : Cell) :
    (∃ a, assignedCell cfg a = b) ↔ revLet cfg b ≠ .none := by
  have hvalues : (∃ a, assignedCell cfg a = b) ↔
      (b = spaceCell ∨ b = capCell ∨ b = numCell) ∨ ∃ i, letterCell cfg i = b := by
    simp [assignedCell, Fin.exists_fin_succ, eq_comm (b := b)]
  rw [hvalues, ne_eq, revLet_eq_none_iff, Unnamed, not_and_or, ← not_or, ← not_or, not_not, not_forall_not]

/-- Settles O10: the 29 patterns with an entry are the values of an injective table, and the others are the rest of the
64. -/
theorem unassignedPatternsAreThirtyFive : Obligations.UnassignedPatternsAreThirtyFive := by
  intro cfg h
  have hassigned := length_filter_cells_of_injective (assignedCell cfg) (assignedCell_injective cfg h)
    (fun b => !(revLet cfg b == .none)) fun b => by rw [exists_assignedCell_iff]; simp
  have hsplit := List.length_eq_length_filter_add (l := List.finRange 64)
    fun n => revLet cfg (BitVec.ofFin n) == .none
  rw [List.length_finRange, hassigned, Fintype.card_sum, Fintype.card_fin, Fintype.card_fin] at hsplit
  exact Nat.add_right_cancel (m := 3 + 26) hsplit.symm

/-- Settles O9: a digit's cell leads back to the digit, the cells with an entry are the values of the injective digit
table, and the default rows (log 3) are read by evaluation. -/
theorem reverseDigitTableInverts : Obligations.ReverseDigitTableInverts := by
  refine ⟨fun cfg h => ⟨fun b d => ⟨digitCell_of_revDig cfg b d, ?_⟩, revDig_eq_none_iff cfg, ?_⟩, by decide⟩
  · rintro rfl
    exact revDig_digitCell cfg h d
  · exact length_filter_cells_of_injective (digitCell cfg) (digitCell_injective cfg h)
      (fun b => (revDig cfg b).isSome) (revDig_isSome_iff cfg)

end Sys2Proof.Machine
end

section
/-!
The string of a cell position by position (30_encoding.md R73, R83), and the classes of a symbol as ranges and predicates
(R80, R81).
-/
namespace Sys2Proof.Machine

/-! ### The positions of a cell -/

theorem dotSym_eq_symO_iff (b : Bool) : dotSym b = symO ↔ b = true := by cases b <;> decide

/-- Position `k` of the string is bit `5 - k` of the packed cell (30_encoding.md R73). -/
theorem cellStr_getElem? (b : Cell) (k : Nat) (h : k < 6) : (cellStr b)[k]? = some (dotSym (b.getLsbD (5 - k))) := by
  interval_cases k <;> rfl

theorem mem_cellStr (b : Cell) (c : Sym) (h : c ∈ cellStr b) : c = symO ∨ c = symDot := by
  have hdot : ∃ x, c = dotSym x := by
    simp only [cellStr, List.mem_cons, List.not_mem_nil, or_false] at h
    obtain h | h | h | h | h | h := h <;> exact ⟨_, h⟩
  obtain ⟨_ | _, rfl⟩ := hdot
  · exact .inr rfl
  · exact .inl rfl

/-- A symbol over `O` and `.` is a cell position. -/
theorem exists_dotSym_eq (c : Sym) (h : c = symO ∨ c = symDot) : ∃ b, c = dotSym b := by
  obtain rfl | rfl := h
  · exact ⟨true, rfl⟩
  · exact ⟨false, rfl⟩

/-- Six symbols over `O` and `.` are the string of a cell. -/
theorem exists_cellStr_eq (g : List Sym) (hlen : g.length = 6) (h : ∀ c ∈ g, c = symO ∨ c = symDot) :
    ∃ b, g = cellStr b := by
  obtain ⟨c5, c4, c3, c2, c1, c0, rfl⟩ : ∃ c5 c4 c3 c2 c1 c0, g = [c5, c4, c3, c2, c1, c0] := by
    match g, hlen with
    | [c5, c4, c3, c2, c1, c0], _ => exact ⟨c5, c4, c3, c2, c1, c0, rfl⟩
  obtain ⟨b5, rfl⟩ := exists_dotSym_eq c5 (h c5 (by simp))
  obtain ⟨b4, rfl⟩ := exists_dotSym_eq c4 (h c4 (by simp))
  obtain ⟨b3, rfl⟩ := exists_dotSym_eq c3 (h c3 (by simp))
  obtain ⟨b2, rfl⟩ := exists_dotSym_eq c2 (h c2 (by simp))
  obtain ⟨b1, rfl⟩ := exists_dotSym_eq c1 (h c1 (by simp))
  obtain ⟨b0, rfl⟩ := exists_dotSym_eq c0 (h c0 (by simp))
  exact ⟨packCell b5 b4 b3 b2 b1 b0, (cellStr_packCell b5 b4 b3 b2 b1 b0).symm⟩

theorem cellBits_isSome_iff (g : List Sym) :
    (cellBits g).isSome = true ↔ g.length = 6 ∧ ∀ c ∈ g, c = symO ∨ c = symDot := by
  simp only [Option.isSome_iff_exists, cellBits_eq_some_iff]
  constructor
  · rintro ⟨b, rfl⟩
    exact ⟨cellStr_length b, mem_cellStr b⟩
  · rintro ⟨hlen, h⟩
    exact exists_cellStr_eq g hlen h

/-- Settles O5: a group has a packed form exactly if it is the string of that cell, and the strings of cells are the six
symbols over `O` and `.`. -/
theorem cellStringAndPackedFormAgree : Obligations.CellStringAndPackedFormAgree := by
  refine ⟨cellBits_cellStr, fun g b h => ?_, cellBits_isSome_iff⟩
  obtain rfl := (cellBits_eq_some_iff g b).mp h
  refine ⟨rfl, fun k hk => ?_⟩
  rw [cellStr_getElem? b k hk, Option.some.injEq, dotSym_eq_symO_iff]

/-! ### The encoder's classes -/

theorem eq_symSpace_iff (c : Sym) : c = symSpace ↔ c.toNat = 0x20 := BitVec.toNat_inj.symm

/-- The class of a symbol with the range it lies in; the ranges exclude each other (30_encoding.md R80). -/
theorem encClass_cases (c : Sym) :
    (encClass c = .upper ∧ 0x41 ≤ c.toNat ∧ c.toNat ≤ 0x5A) ∨
    (encClass c = .lower ∧ 0x61 ≤ c.toNat ∧ c.toNat ≤ 0x7A) ∨
    (encClass c = .digit ∧ 0x30 ≤ c.toNat ∧ c.toNat ≤ 0x39) ∨
    (encClass c = .space ∧ c.toNat = 0x20) ∨
    (encClass c = .other ∧ ¬(0x41 ≤ c.toNat ∧ c.toNat ≤ 0x5A) ∧ ¬(0x61 ≤ c.toNat ∧ c.toNat ≤ 0x7A) ∧
      ¬(0x30 ≤ c.toNat ∧ c.toNat ≤ 0x39) ∧ c.toNat ≠ 0x20) := by
  simp only [encClass, isUpper_iff, isLower_iff, isDigit_iff, eq_symSpace_iff]
  split_ifs with hu hl hd hs <;> simp [*]

/-- Settles O11: each symbol lies in one of the five ranges, and no two ranges meet. -/
theorem encoderClassesByRange : Obligations.EncoderClassesByRange := by
  intro c
  obtain ⟨hk, h⟩ | ⟨hk, h⟩ | ⟨hk, h⟩ | ⟨hk, h⟩ | ⟨hk, h⟩ := encClass_cases c <;>
    simp only [hk, reduceCtorEq, true_iff, false_iff] <;> omega

/-- No symbol above 0x7F has a cell in the encoder. -/
theorem encClass_eq_other_of_not_ascii (c : Sym) (h : 0x7F < c.toNat) : encClass c = .other := by
  obtain ⟨-, -, -, -, hother⟩ := encoderClassesByRange c
  rw [hother]
  omega

/-! ### The classifier's classes -/

theorem isEnglish_iff (cfg : Config) (c : Sym) :
    isEnglish cfg c = true ↔ uniLetter cfg c = true ∨ uniDigit cfg c = true ∨ c = symSpace := by
  rw [isEnglish, Bool.or_eq_true, Bool.or_eq_true, beq_iff_eq, or_assoc]

theorem isEnglish_eq_false_iff (cfg : Config) (c : Sym) :
    isEnglish cfg c = false ↔ uniLetter cfg c = false ∧ uniDigit cfg c = false ∧ c ≠ symSpace := by
  rw [isEnglish, Bool.or_eq_false_iff, Bool.or_eq_false_iff, beq_eq_false_iff_ne, and_assoc]

theorem clsClass_eq_o_iff (cfg : Config) (c : Sym) : clsClass cfg c = .o ↔ c = symO := by
  unfold clsClass
  split_ifs with ho <;> simp [ho]

theorem clsClass_eq_dot_iff (cfg : Config) (c : Sym) : clsClass cfg c = .dot ↔ c = symDot := by
  unfold clsClass
  split_ifs with ho hd
  · simp [ho, symO, symDot]
  all_goals simp [hd]

theorem clsClass_eq_eng_iff (cfg : Config) (c : Sym) :
    clsClass cfg c = .eng ↔ c ≠ symO ∧ isEnglish cfg c = true := by
  unfold clsClass
  split_ifs with ho hd he
  · simp [ho]
  · simp [hd, isEnglish_symDot]
  all_goals simp [ho, he]

theorem clsClass_eq_other_iff (cfg : Config) (c : Sym) :
    clsClass cfg c = .other ↔ c ≠ symO ∧ c ≠ symDot ∧ isEnglish cfg c = false := by
  unfold clsClass
  split_ifs with ho hd he <;> simp [*]

/-- On the ASCII range the English symbols are the space and the letters and digits of the encoder. -/
theorem isEnglish_iff_of_ascii (cfg : Config) (c : Sym) (h : c.toNat < 0x80) :
    isEnglish cfg c = true ↔ encClass c ≠ .other := by
  rw [isEnglish_iff, uniLetter_iff_of_ascii cfg c h, uniDigit_iff_of_ascii cfg c h, eq_symSpace_iff]
  obtain ⟨hk, hr⟩ | ⟨hk, hr⟩ | ⟨hk, hr⟩ | ⟨hk, hr⟩ | ⟨hk, hr⟩ := encClass_cases c <;>
    simp only [hk, ne_eq, reduceCtorEq, not_false_eq_true, not_true, iff_true, iff_false] <;> omega

/-- What is not English has no cell in the encoder (30_encoding.md R81). -/
theorem encClass_eq_other_of_not_english (cfg : Config) (c : Sym) (h : isEnglish cfg c = false) :
    encClass c = .other := by
  by_cases hlow : c.toNat < 0x80
  · have hnot := (isEnglish_iff_of_ascii cfg c hlow).not
    rw [Bool.not_eq_true, not_not] at hnot
    exact hnot.mp h
  · exact encClass_eq_other_of_not_ascii c (by omega)

/-- On the ASCII range K_ENG is the space, the digits, the uppercase letters without `O` and the lowercase letters. -/
theorem clsClass_eq_eng_iff_of_ascii (cfg : Config) (c : Sym) (h : c.toNat < 0x80) :
    clsClass cfg c = .eng ↔ c.toNat = 0x20 ∨ (0x30 ≤ c.toNat ∧ c.toNat ≤ 0x39) ∨
      (0x41 ≤ c.toNat ∧ c.toNat ≤ 0x5A ∧ c.toNat ≠ 0x4F) ∨ (0x61 ≤ c.toNat ∧ c.toNat ≤ 0x7A) := by
  have ho : c = symO ↔ c.toNat = 0x4F := BitVec.toNat_inj.symm
  rw [clsClass_eq_eng_iff, isEnglish_iff, uniLetter_iff_of_ascii cfg c h, uniDigit_iff_of_ascii cfg c h,
    eq_symSpace_iff, ne_eq, ho]
  omega

/-- Settles O12: the classes are tested in order, the full stop is not English, and what is not English is OTHER for the
encoder on both sides of 0x80. -/
theorem classifierClassesByPredicate : Obligations.ClassifierClassesByPredicate := by
  intro cfg c
  refine ⟨clsClass_eq_o_iff cfg c, clsClass_eq_dot_iff cfg c, ?_, ?_, clsClass_eq_eng_iff_of_ascii cfg c, ?_,
    encClass_eq_other_of_not_ascii c⟩
  · rw [clsClass_eq_eng_iff, isEnglish_iff]
    rfl
  · rw [clsClass_eq_other_iff, isEnglish_eq_false_iff]
    rfl
  · rintro (hdot | hother)
    · rw [(clsClass_eq_dot_iff cfg c).mp hdot]
      rfl
    · obtain ⟨-, -, he⟩ := (clsClass_eq_other_iff cfg c).mp hother
      exact encClass_eq_other_of_not_english cfg c he

end Sys2Proof.Machine
end

section
/-!
The decoder and the encoder against each other (30_encoding.md R70 to R90): which lists a format accepts and as what, and
the two round trips, one lemma per format.
-/
namespace Sys2Proof.Machine

/-! ### What each format accepts -/

theorem decode_cmd_eq_ok_iff (cfg : Config) (ws : List Sym) (i : Instr) :
    decode cfg .cmd ws = .ok i ↔ ∃ w : Sym, ws = [w] ∧ w.toNat < 4 ∧ i = decodeCmd (w.setWidth 2) := by
  match ws with
  | [] => simp [decode]
  | [w] => by_cases h : w.toNat < 4 <;> simp [decode, h, eq_comm]
  | _ :: _ :: _ => simp [decode]

theorem decode_ctrl_eq_ok_iff (cfg : Config) (ws : List Sym) (i : Instr) :
    decode cfg .ctrl ws = .ok i ↔ ∃ w : Sym, ws = [w] ∧ w.toNat < 4 ∧ i = decodeCtrl (w.setWidth 2) := by
  match ws with
  | [] => simp [decode]
  | [w] => by_cases h : w.toNat < 4 <;> simp [decode, h, eq_comm]
  | _ :: _ :: _ => simp [decode]

theorem decode_cls_eq_ok_iff (cfg : Config) (ws : List Sym) (i : Instr) :
    decode cfg .cls ws = .ok i ↔ (ws = [] ∧ i = .clsEnd) ∨ ∃ c, ws = [c] ∧ i = decodeCls cfg c := by
  match ws with
  | [] | [_] | _ :: _ :: _ => simp [decode, eq_comm]

theorem decode_enc_eq_ok_iff (cfg : Config) (ws : List Sym) (i : Instr) :
    decode cfg .enc ws = .ok i ↔ (ws = [] ∧ i = .encEnd) ∨ ∃ c, ws = [c] ∧ i = decodeEnc c := by
  match ws with
  | [] | [_] | _ :: _ :: _ => simp [decode, eq_comm]

theorem decode_pre_eq_ok_iff (cfg : Config) (ws : List Sym) (i : Instr) :
    decode cfg .pre ws = .ok i ↔ ws = [] ∧ i = .decPre := by
  match ws with
  | [] | _ :: _ => simp [decode, eq_comm]

theorem decode_dec_eq_ok_iff (cfg : Config) (m : Bool) (ws : List Sym) (i : Instr) :
    decode cfg (.dec m) ws = .ok i ↔ (ws = [] ∧ i = .decEnd) ∨ (ws.length = 6 ∧ i = decodeCell cfg m ws) := by
  simp only [decode, List.length_eq_zero_iff]
  split_ifs with h0 h6
  · simp [h0, eq_comm]
  · simp [h0, h6, eq_comm]
  · simp [h0, h6]

/-- The lists of at most one symbol. -/
theorem length_le_one_iff (ws : List Sym) : ws.length ≤ 1 ↔ ws = [] ∨ ∃ c, ws = [c] := by
  rw [Nat.le_one_iff_eq_zero_or_eq_one, List.length_eq_zero_iff, List.length_eq_one_iff]

/-- Settles O4, format by format. -/
theorem decodeAcceptsExactlyTheFormatLengths : Obligations.DecodeAcceptsExactlyTheFormatLengths := by
  intro cfg f ws
  cases f with
  | cmd => simp [decode_cmd_eq_ok_iff]
  | ctrl => simp [decode_ctrl_eq_ok_iff]
  | cls => simp [decode_cls_eq_ok_iff, exists_or, length_le_one_iff]
  | enc => simp [decode_enc_eq_ok_iff, exists_or, length_le_one_iff]
  | pre => simp [decode_pre_eq_ok_iff]
  | dec m => simp [decode_dec_eq_ok_iff, exists_or]

/-- Settles O3: each word is decoded by evaluation (the two letter cells with the default letter table, log 3). -/
theorem sampleWordsDecode : Obligations.SampleWordsDecode := by
  refine ⟨?_, ?_, ?_, ?_, ?_, ?_, ?_, ?_, ?_, ?_, ?_, ?_⟩ <;> decide

/-! ### From the word to the instruction and back -/

/-- `i` is well formed, and `ws` in the format `f` is its encoding. -/
def Encodes (cfg : Config) (f : Format) (ws : List Sym) (i : Instr) : Prop :=
  i.wf cfg = true ∧ encode cfg i = (f, ws)

/-- The 21-bit form of a two-bit value is the value. -/
theorem setWidth_setWidth_of_lt (w : Sym) (h : w.toNat < 4) : (w.setWidth 2).setWidth 21 = w := by
  apply BitVec.eq_of_toNat_eq
  simp only [BitVec.toNat_setWidth]
  omega

theorem encodes_decodeCmd (cfg : Config) (v : BitVec 2) : Encodes cfg .cmd [v.setWidth 21] (decodeCmd v) := by
  fin_cases v <;> exact ⟨rfl, rfl⟩

theorem encodes_decodeCtrl (cfg : Config) (v : BitVec 2) : Encodes cfg .ctrl [v.setWidth 21] (decodeCtrl v) := by
  fin_cases v <;> exact ⟨rfl, rfl⟩

theorem encodes_decodeCls (cfg : Config) (c : Sym) : Encodes cfg .cls [c] (decodeCls cfg c) := by
  cases hk : clsClass cfg c <;> rw [decodeCls, hk]
  case o => exact ⟨rfl, by rw [(clsClass_eq_o_iff cfg c).mp hk]; rfl⟩
  case dot => exact ⟨rfl, by rw [(clsClass_eq_dot_iff cfg c).mp hk]; rfl⟩
  all_goals exact ⟨beq_iff_eq.mpr hk, rfl⟩

theorem upperSym_toNat (i : Fin 26) : (upperSym i).toNat = 0x41 + i.val := by
  rw [upperSym, BitVec.toNat_ofNat]
  omega

theorem lowerSym_toNat (i : Fin 26) : (lowerSym i).toNat = 0x61 + i.val := by
  rw [lowerSym, BitVec.toNat_ofNat]
  omega

theorem digitSym_toNat (d : Fin 10) : (digitSym d).toNat = 0x30 + d.val := by
  rw [digitSym, BitVec.toNat_ofNat]
  omega

theorem letterIndex_val (base : Nat) (c : Sym) (h : c.toNat - base < 26) :
    (letterIndex base c).val = c.toNat - base := Nat.mod_eq_of_lt h

theorem digitValue_val (c : Sym) (h : c.toNat - 0x30 < 10) : (digitValue c).val = c.toNat - 0x30 :=
  Nat.mod_eq_of_lt h

theorem upperSym_letterIndex (c : Sym) (hlo : 0x41 ≤ c.toNat) (hhi : c.toNat ≤ 0x5A) :
    upperSym (letterIndex 0x41 c) = c := by
  apply BitVec.eq_of_toNat_eq
  rw [upperSym_toNat, letterIndex_val 0x41 c (by omega)]
  omega

theorem lowerSym_letterIndex (c : Sym) (hlo : 0x61 ≤ c.toNat) (hhi : c.toNat ≤ 0x7A) :
    lowerSym (letterIndex 0x61 c) = c := by
  apply BitVec.eq_of_toNat_eq
  rw [lowerSym_toNat, letterIndex_val 0x61 c (by omega)]
  omega

theorem digitSym_digitValue (c : Sym) (hlo : 0x30 ≤ c.toNat) (hhi : c.toNat ≤ 0x39) :
    digitSym (digitValue c) = c := by
  apply BitVec.eq_of_toNat_eq
  rw [digitSym_toNat, digitValue_val c (by omega)]
  omega

theorem letterIndex_upperSym (i : Fin 26) : letterIndex 0x41 (upperSym i) = i := by
  have h := upperSym_toNat i
  apply Fin.ext
  rw [letterIndex_val 0x41 _ (by omega)]
  omega

theorem letterIndex_lowerSym (i : Fin 26) : letterIndex 0x61 (lowerSym i) = i := by
  have h := lowerSym_toNat i
  apply Fin.ext
  rw [letterIndex_val 0x61 _ (by omega)]
  omega

theorem digitValue_digitSym (d : Fin 10) : digitValue (digitSym d) = d := by
  have h := digitSym_toNat d
  apply Fin.ext
  rw [digitValue_val _ (by omega)]
  omega

theorem encodes_decodeEnc (cfg : Config) (c : Sym) : Encodes cfg .enc [c] (decodeEnc c) := by
  obtain ⟨hk, hlo, hhi⟩ | ⟨hk, hlo, hhi⟩ | ⟨hk, hlo, hhi⟩ | ⟨hk, h⟩ | ⟨hk, -⟩ := encClass_cases c <;>
    rw [decodeEnc, hk]
  · exact ⟨rfl, by rw [encode, upperSym_letterIndex c hlo hhi]⟩
  · exact ⟨rfl, by rw [encode, lowerSym_letterIndex c hlo hhi]⟩
  · exact ⟨rfl, by rw [encode, digitSym_digitValue c hlo hhi]⟩
  · exact ⟨rfl, by rw [encode, (eq_symSpace_iff c).mpr h]⟩
  · exact ⟨beq_iff_eq.mpr hk, rfl⟩

theorem decodeCls_of_eng (cfg : Config) (c : Sym) (h : clsClass cfg c = .eng) : decodeCls cfg c = .clsEng c := by
  rw [decodeCls, h]

theorem decodeCls_of_other (cfg : Config) (c : Sym) (h : clsClass cfg c = .other) :
    decodeCls cfg c = .clsOther c := by
  rw [decodeCls, h]

theorem decodeEnc_of_other (c : Sym) (h : encClass c = .other) : decodeEnc c = .encOther c := by
  rw [decodeEnc, h]

theorem decodeEnc_upperSym (i : Fin 26) : decodeEnc (upperSym i) = .encUpper i := by
  obtain ⟨hupper, -⟩ := encoderClassesByRange (upperSym i)
  rw [decodeEnc, hupper.mpr (by rw [upperSym_toNat]; omega), letterIndex_upperSym]

theorem decodeEnc_lowerSym (i : Fin 26) : decodeEnc (lowerSym i) = .encLower i := by
  obtain ⟨-, hlower, -⟩ := encoderClassesByRange (lowerSym i)
  rw [decodeEnc, hlower.mpr (by rw [lowerSym_toNat]; omega), letterIndex_lowerSym]

theorem decodeEnc_digitSym (d : Fin 10) : decodeEnc (digitSym d) = .encDigit d := by
  obtain ⟨-, -, hdigit, -⟩ := encoderClassesByRange (digitSym d)
  rw [decodeEnc, hdigit.mpr (by rw [digitSym_toNat]; omega), digitValue_digitSym]

/-! ### Cells -/

/-- A cell has an entry in number mode exactly if it is named or the cell of a digit (30_encoding.md R78). -/
theorem cellKnown_true_eq_false_iff (cfg : Config) (b : Cell) :
    cellKnown cfg true b = false ↔ Unnamed b ∧ revDig cfg b = none := by
  simp [cellKnown, Unnamed, and_assoc]

/-- A cell has an entry in letter mode exactly if the reverse letter table has one (30_encoding.md R77). -/
theorem cellKnown_false_eq_false_iff (cfg : Config) (b : Cell) :
    cellKnown cfg false b = false ↔ revLet cfg b = .none := by
  simp [cellKnown, revLet_eq_none_iff, Unnamed, and_assoc]

/-- A group without an entry: it is no cell string, or the string of a cell without an entry (42_decoder.md R143). -/
theorem wf_decUnknown_iff (cfg : Config) (m : Bool) (g : List Sym) :
    (Instr.decUnknown m g).wf cfg = true ↔
      g.length = 6 ∧ (cellBits g = none ∨ ∃ b, g = cellStr b ∧ cellKnown cfg m b = false) := by
  rw [Instr.wf, Bool.and_eq_true, beq_iff_eq]
  refine and_congr_right fun _ => ?_
  cases hb : cellBits g with
  | none => simp
  | some b =>
    obtain rfl := (cellBits_eq_some_iff g b).mp hb
    simp [cellStr_inj]

theorem decodeCell_of_not_cellString (cfg : Config) (m : Bool) (g : List Sym) (h : cellBits g = none) :
    decodeCell cfg m g = .decUnknown m g := by
  rw [decodeCell, h]

/-- A cell without an entry in either reverse table that is asked is the instruction DEC.UNKNOWN. -/
theorem decodeCell_of_not_cellKnown (cfg : Config) (m : Bool) (b : Cell) (h : cellKnown cfg m b = false) :
    decodeCell cfg m (cellStr b) = .decUnknown m (cellStr b) := by
  cases m with
  | true =>
    obtain ⟨⟨hs, hc, hn⟩, hr⟩ := (cellKnown_true_eq_false_iff cfg b).mp h
    simp [decodeCell, cellBits_cellStr, hs, hc, hn, hr]
  | false =>
    have hr := (cellKnown_false_eq_false_iff cfg b).mp h
    obtain ⟨⟨hs, hc, hn⟩, -⟩ := (revLet_eq_none_iff cfg b).mp hr
    simp [decodeCell, cellBits_cellStr, hs, hc, hn, hr]

theorem decodeCell_of_revDig (cfg : Config) (b : Cell) (d : Fin 10) (h : Unnamed b) (hd : revDig cfg b = some d) :
    decodeCell cfg true (cellStr b) = .decDigit d := by
  obtain ⟨hs, hc, hn⟩ := h
  simp [decodeCell, cellBits_cellStr, hs, hc, hn, hd]

theorem decodeCell_of_revLet (cfg : Config) (b : Cell) (j : Fin 26) (h : Unnamed b) (hj : revLet cfg b = .letter j) :
    decodeCell cfg false (cellStr b) = .decLetter j := by
  obtain ⟨hs, hc, hn⟩ := h
  simp [decodeCell, cellBits_cellStr, hs, hc, hn, hj]

/-- A cell that is not named has an entry in the reverse table of the mode, or is unknown. -/
theorem entry_cases_of_unnamed (cfg : Config) (m : Bool) (b : Cell) (h : Unnamed b) :
    (m = true ∧ ∃ d, revDig cfg b = some d) ∨ (m = false ∧ ∃ j, revLet cfg b = .letter j) ∨
    cellKnown cfg m b = false := by
  cases m with
  | true =>
    cases hd : revDig cfg b with
    | some d => exact .inl ⟨rfl, d, rfl⟩
    | none => exact .inr (.inr ((cellKnown_true_eq_false_iff cfg b).mpr ⟨h, hd⟩))
  | false =>
    obtain ⟨j, -, hj⟩ | ⟨-, hr⟩ := revLet_cases_of_unnamed cfg b h
    · exact .inr (.inl ⟨rfl, j, hj⟩)
    · exact .inr (.inr ((cellKnown_false_eq_false_iff cfg b).mpr hr))

/-- The string of a cell is the encoding of what it is decoded to: a named cell, a digit, a letter, or an unknown
cell. -/
theorem encodes_decodeCell_cellStr (cfg : Config) (m : Bool) (b : Cell) :
    Encodes cfg (.dec m) (cellStr b) (decodeCell cfg m (cellStr b)) := by
  by_cases hu : Unnamed b
  · obtain ⟨rfl, d, hd⟩ | ⟨rfl, j, hj⟩ | hk := entry_cases_of_unnamed cfg m b hu
    · rw [decodeCell_of_revDig cfg b d hu hd]
      exact ⟨rfl, by rw [encode, digitCell_of_revDig cfg b d hd]⟩
    · rw [decodeCell_of_revLet cfg b j hu hj]
      exact ⟨rfl, by rw [encode, letterCell_of_revLet cfg b j hj]⟩
    · rw [decodeCell_of_not_cellKnown cfg m b hk]
      exact ⟨(wf_decUnknown_iff cfg m _).mpr ⟨cellStr_length b, .inr ⟨b, rfl, hk⟩⟩, rfl⟩
  · obtain rfl | rfl | rfl : b = spaceCell ∨ b = capCell ∨ b = numCell := by
      simpa only [Unnamed, ne_eq, not_and_or, not_not] using hu
    all_goals exact ⟨rfl, rfl⟩

/-- Every group of six symbols is the encoding of the instruction it is decoded to. -/
theorem encodes_decodeCell (cfg : Config) (m : Bool) (g : List Sym) (hlen : g.length = 6) :
    Encodes cfg (.dec m) g (decodeCell cfg m g) := by
  cases hb : cellBits g with
  | none =>
    rw [decodeCell_of_not_cellString cfg m g hb]
    exact ⟨(wf_decUnknown_iff cfg m g).mpr ⟨hlen, .inl hb⟩, rfl⟩
  | some b =>
    obtain rfl := (cellBits_eq_some_iff g b).mp hb
    exact encodes_decodeCell_cellStr cfg m b

/-! ### The round trips -/

/-- What the encoder writes is read back: a literal word by evaluation, a word with an operand by the lemma of its
class, table or group. Only digits and letters as cells need a legal letter table. -/
theorem decode_encode (cfg : Config) (i : Instr) (hlut : cfg.lutValid = true) (h : i.wf cfg = true) :
    decode cfg (encode cfg i).1 (encode cfg i).2 = .ok i := by
  cases i with
  | cmdTranslate | cmdEncode | cmdDecode | cmdClassify | ctrlNone | ctrlStart | clsO | clsDot | clsEnd | encSpace
  | encEnd | decPre | decEnd => rfl
  | decCap m | decNum m | decSpace m => rfl
  | ctrlReset b => cases b <;> rfl
  | clsEng c => exact congrArg Except.ok (decodeCls_of_eng cfg c (beq_iff_eq.mp h))
  | clsOther c => exact congrArg Except.ok (decodeCls_of_other cfg c (beq_iff_eq.mp h))
  | encUpper i => exact congrArg Except.ok (decodeEnc_upperSym i)
  | encLower i => exact congrArg Except.ok (decodeEnc_lowerSym i)
  | encDigit d => exact congrArg Except.ok (decodeEnc_digitSym d)
  | encOther c => exact congrArg Except.ok (decodeEnc_of_other c (beq_iff_eq.mp h))
  | decDigit d =>
    exact congrArg Except.ok (decodeCell_of_revDig cfg _ d (digitCell_unnamed cfg hlut d) (revDig_digitCell cfg hlut d))
  | decLetter j =>
    exact congrArg Except.ok (decodeCell_of_revLet cfg _ j (letterCell_unnamed cfg hlut j) (revLet_letterCell cfg hlut j))
  | decUnknown m g =>
    obtain ⟨hlen, hb | ⟨b, rfl, hk⟩⟩ := (wf_decUnknown_iff cfg m g).mp h
    · rw [encode, decode_dec_of_length_six cfg m g hlen, decodeCell_of_not_cellString cfg m g hb]
    · exact congrArg Except.ok (decodeCell_of_not_cellKnown cfg m b hk)

/-- Settles O1, by the instruction. -/
theorem decodeOfEncodeIsTheInstruction : Obligations.DecodeOfEncodeIsTheInstruction := decode_encode

/-- What the decoder accepts is the encoding of what it gives, but for the end of the input of the decoder, which is
read in both modes and encoded in one. -/
theorem encodes_of_decode (cfg : Config) (f : Format) (ws : List Sym) (i : Instr) (h : decode cfg f ws = .ok i) :
    Encodes cfg f ws i ∨ (∃ m, f = .dec m) ∧ ws = [] ∧ i = .decEnd := by
  cases f with
  | cmd =>
    obtain ⟨w, rfl, hw, rfl⟩ := (decode_cmd_eq_ok_iff cfg ws i).mp h
    have henc := encodes_decodeCmd cfg (w.setWidth 2)
    rw [setWidth_setWidth_of_lt w hw] at henc
    exact .inl henc
  | ctrl =>
    obtain ⟨w, rfl, hw, rfl⟩ := (decode_ctrl_eq_ok_iff cfg ws i).mp h
    have henc := encodes_decodeCtrl cfg (w.setWidth 2)
    rw [setWidth_setWidth_of_lt w hw] at henc
    exact .inl henc
  | cls =>
    obtain ⟨rfl, rfl⟩ | ⟨c, rfl, rfl⟩ := (decode_cls_eq_ok_iff cfg ws i).mp h
    · exact .inl ⟨rfl, rfl⟩
    · exact .inl (encodes_decodeCls cfg c)
  | enc =>
    obtain ⟨rfl, rfl⟩ | ⟨c, rfl, rfl⟩ := (decode_enc_eq_ok_iff cfg ws i).mp h
    · exact .inl ⟨rfl, rfl⟩
    · exact .inl (encodes_decodeEnc cfg c)
  | pre =>
    obtain ⟨rfl, rfl⟩ := (decode_pre_eq_ok_iff cfg ws i).mp h
    exact .inl ⟨rfl, rfl⟩
  | dec m =>
    obtain ⟨rfl, rfl⟩ | ⟨hlen, rfl⟩ := (decode_dec_eq_ok_iff cfg m ws i).mp h
    · exact .inr ⟨⟨m, rfl⟩, rfl, rfl⟩
    · exact .inl (encodes_decodeCell cfg m ws hlen)

/-- Settles O2, by the format; the exception is `DEC.END`. -/
theorem encodeOfDecodeIsTheWord : Obligations.EncodeOfDecodeIsTheWord := by
  intro cfg f ws i h
  obtain ⟨hwf, henc⟩ | ⟨hdec, rfl, rfl⟩ := encodes_of_decode cfg f ws i h
  · rw [henc]
    exact ⟨hwf, rfl, .inl rfl⟩
  · exact ⟨rfl, rfl, .inr ⟨rfl, hdec⟩⟩

end Sys2Proof.Machine
end

section
/-!
The command codes where the sequencer reads them (30_encoding.md R87, 43_dispatch.md R161 to R165), and what the host
writes into a block that is not busy (20_memory.md R58).
-/
namespace Sys2Proof.Machine

/-! ### The command codes -/

/-- The code of register CMD is the code of the instruction that START and CLS.END run. -/
theorem exec_decodeCmd_code (s : State) : exec (decodeCmd s.cmd.code) s = runCommand s := by
  cases hc : s.cmd <;> rw [runCommand, hc] <;> rfl

theorem decode_cmd_code (cfg : Config) (c : Cmd) :
    decode cfg .cmd [c.code.setWidth 21] = .ok (decodeCmd c.code) := by
  cases c <;> rfl

theorem exec_ctrlStart_of_not_busy (s : State) (h : s.phase.busy = false) :
    exec .ctrlStart s = runCommand s.startInit := if_neg (ne_true_of_eq_false h)

/-- START and CLS.END run the instruction whose code register CMD holds, each after its own writes. -/
theorem commandOfRegister_runs (s : State) (i : Instr) (h : decode s.cfg .cmd [s.cmd.code.setWidth 21] = .ok i) :
    exec .clsEnd s = exec i { s with tag := some s.verdict } ∧
    (s.phase = .idle ∨ s.phase = .done → exec .ctrlStart s = exec i s.startInit) := by
  rw [decode_cmd_code] at h
  cases h
  refine ⟨(exec_decodeCmd_code { s with tag := some s.verdict }).symm, fun hp => ?_⟩
  rw [exec_ctrlStart_of_not_busy s ((Phase.busy_eq_false_iff s.phase).mpr hp)]
  exact (exec_decodeCmd_code s.startInit).symm

/-- In a block that is not busy each command selects its first phase (43_dispatch.md R161). -/
theorem exec_command_of_not_busy (s : State) (h : s.phase = .idle ∨ s.phase = .done) :
    exec .cmdTranslate s = .next { s with phase := .classify } ∧
    exec .cmdClassify s = .next { s with phase := .classify } ∧
    exec .cmdEncode s = .next { s with phase := .encode } ∧
    exec .cmdDecode s = .next { s with phase := .preflight } := by
  obtain hp | hp := h <;>
    simp only [exec, execCmdTranslate, execCmdClassify, execCmdEncode, execCmdDecode, hp, and_self]

/-- At CLS.END the command TRANSLATE hands the input over by its tag (43_dispatch.md R162). -/
theorem execCmdTranslate_of_classify (s : State) (h : s.phase = .classify) (g : Tag) (hg : s.tag = some g) :
    exec .cmdTranslate s = .next (match g with
      | .braille => s.handOver .preflight
      | .english => s.handOver .encode
      | .other => s.raise .unclassifiableInput s.inLen) := by
  cases g <;> simp only [exec, execCmdTranslate, h, hg]

/-- In the codec phases nothing reads a command code (log 14). -/
theorem exec_command_of_codec (s : State) (h : s.phase = .encode ∨ s.phase = .preflight ∨ s.phase = .decode) :
    exec .cmdTranslate s = .next s ∧ exec .cmdEncode s = .next s ∧
    exec .cmdDecode s = .next s ∧ exec .cmdClassify s = .next s := by
  obtain hp | hp | hp := h <;>
    simp only [exec, execCmdTranslate, execCmdClassify, execCmdEncode, execCmdDecode, hp, and_self]

/-- Settles O34, by the phase in which the code is read. The faults and the codec phases are the model's choice (log 14),
and that the tag stands beside the raise its reading (log 22). -/
theorem commandsActAtStartAndAtClsEnd : Obligations.CommandsActAtStartAndAtClsEnd := by
  refine ⟨fun cfg => ⟨rfl, rfl, rfl, rfl⟩, commandOfRegister_runs, exec_command_of_not_busy, fun s hp => ?_,
    exec_command_of_codec⟩
  refine ⟨execCmdTranslate_of_classify s hp .braille, execCmdTranslate_of_classify s hp .english,
    execCmdTranslate_of_classify s hp .other, ?_, ?_, ?_⟩
  · simp only [exec, execCmdClassify, hp, State.finish]
  · simp only [exec, execCmdEncode, hp]
  · simp only [exec, execCmdDecode, hp]

/-! ### Writing when not busy -/

theorem Cmd.ofCode_code (c : Cmd) : Cmd.ofCode c.code = c := by cases c <;> rfl

/-- Of a value only the bits of the register are written. -/
theorem ofNat_mod_two_pow (w v : Nat) : BitVec.ofNat w (v % 2 ^ w) = BitVec.ofNat w v := by
  apply BitVec.eq_of_toNat_eq
  rw [BitVec.toNat_ofNat, BitVec.toNat_ofNat, Nat.mod_mod]

section
variable (s : State) (h : s.phase.busy = false)
include h

theorem State.writeReg_cmd (v : Nat) : s.writeReg 0 v = { s with cmd := Cmd.ofCode (BitVec.ofNat 2 v) } := by
  simp only [State.writeReg, h, Bool.false_eq_true, if_false, if_true]

theorem State.writeReg_inLen (v : Nat) : s.writeReg 1 v = if v ≤ s.cfg.inCap then { s with inLen := v } else s := by
  simp only [State.writeReg, h, Bool.false_eq_true, if_false, one_ne_zero, if_true]

theorem hostOperation_writeCmd (c : Cmd) :
    hostOperation (.writeReg 0 c.code.toNat) s = .next { s with cmd := c } := by
  rw [hostOperation, if_neg (by decide), s.writeReg_cmd h, BitVec.ofNat_toNat, BitVec.setWidth_eq, Cmd.ofCode_code]

theorem State.writeWindow_in (i v : Nat) (hi : i < s.cfg.inCap) :
    s.writeWindow 16 i v = { s with inBuf := s.inBuf.write i (BitVec.ofNat 21 v) } := by
  simp only [State.writeWindow, h, hi, Bool.false_eq_true, if_false, and_self, if_true]

end

/-- The registers from 3 on are not written by the host. -/
theorem State.writeReg_readOnly (s : State) (n v : Nat) (hn : 3 ≤ n) : s.writeReg n v = s := by
  obtain hw | ⟨-, hn', -⟩ | ⟨-, hn', -⟩ := s.writeReg_cases n v
  · exact hw
  all_goals omega

/-- Nothing is written outside the window IN or past its end. -/
theorem State.writeWindow_outside (s : State) (w i v : Nat) (hout : w ≠ 16 ∨ s.cfg.inCap ≤ i) :
    s.writeWindow w i v = s := by
  obtain hw | ⟨-, hw16, hi, -⟩ := s.writeWindow_cases w i v
  · exact hw
  · omega

/-- `IN[i]` reads as the symbol written to it. -/
theorem State.inAt_write (s : State) (i : Nat) (v : Sym) : State.inAt { s with inBuf := s.inBuf.write i v } i = v := by
  rw [State.inAt, Memory.read_write, if_pos rfl, Option.getD_some]

/-- A write of CMD depends on the two bits of the code alone. -/
theorem State.writeReg_cmd_congr (s : State) (v v' : Nat) (h : BitVec.ofNat 2 v = BitVec.ofNat 2 v') :
    s.writeReg 0 v = s.writeReg 0 v' := by
  simp only [State.writeReg, if_true, h]

/-- A write of a window depends on the 21 bits of the symbol alone. -/
theorem State.writeWindow_congr (s : State) (w i v v' : Nat) (h : BitVec.ofNat 21 v = BitVec.ofNat 21 v') :
    s.writeWindow w i v = s.writeWindow w i v' := by
  rw [State.writeWindow, State.writeWindow, h]

/-- Settles O42, by the register or window that is written. The last three clauses, on wider values, are the model's
choice (log 10). -/
theorem writesWhenNotBusyTakeEffect : Obligations.WritesWhenNotBusyTakeEffect := by
  intro s hp
  have h : s.phase.busy = false := (Phase.busy_eq_false_iff s.phase).mpr hp
  have cmd := hostOperation_writeCmd s h
  refine ⟨cmd, ⟨cmd .translate, cmd .encode, cmd .decode, cmd .classify⟩, fun v hv => ?_, fun v hv => ?_,
    fun n v hn => ?_, fun i v hi => ?_, fun i v hi => ?_, fun w i v hw => ?_, fun v => ?_, fun v => ?_, fun i v => ?_⟩
  · rw [hostOperation, if_neg (by decide), s.writeReg_inLen h, if_pos hv]
  · rw [hostOperation, if_neg (by decide), s.writeReg_inLen h, if_neg (Nat.not_le.mpr hv)]
  · rw [hostOperation, if_neg (by omega), s.writeReg_readOnly n v hn]
  · refine ⟨{ s with inBuf := s.inBuf.write i v }, ?_, rfl, s.inAt_write i v, fun j hj => ?_⟩
    · rw [hostOperation, s.writeWindow_in h i v.toNat hi, BitVec.ofNat_toNat, BitVec.setWidth_eq]
    · rw [Memory.read_write, if_neg hj]
  · rw [hostOperation, s.writeWindow_outside 16 i v (.inr hi)]
  · rw [hostOperation, s.writeWindow_outside w i v (.inl hw)]
  · have hlow : BitVec.ofNat 2 (v % 4) = BitVec.ofNat 2 v := ofNat_mod_two_pow 2 v
    rw [hostOperation, hostOperation, if_neg (by decide), if_neg (by decide), s.writeReg_cmd_congr _ _ hlow]
  · have hlow : BitVec.ofNat 2 (v % 4) = BitVec.ofNat 2 v := ofNat_mod_two_pow 2 v
    rw [hostOperation, hostOperation, if_pos rfl, if_pos rfl, hlow]
  · have hlow : BitVec.ofNat 21 (v % 0x200000) = BitVec.ofNat 21 v := ofNat_mod_two_pow 21 v
    rw [hostOperation, hostOperation, s.writeWindow_congr 16 i _ _ hlow]

end Sys2Proof.Machine
end

section
/-!
The classifier one instruction at a time (40_classifier.md R101 to R105), and the command CLASSIFY as a whole (R100,
R106): the block after `n` classifier steps is written down, and at the end of the input its verdict is `classify`.
-/
namespace Sys2Proof.Machine

/-! ### Reading one symbol -/

theorem decode_cls_symbol (cfg : Config) (c : Sym) : decode cfg .cls [c] = .ok (decodeCls cfg c) := rfl

theorem decodeCls_symO (cfg : Config) : decodeCls cfg symO = .clsO := by
  rw [decodeCls, (clsClass_eq_o_iff cfg symO).mpr rfl]

theorem decodeCls_symDot (cfg : Config) : decodeCls cfg symDot = .clsDot := by
  rw [decodeCls, (clsClass_eq_dot_iff cfg symDot).mpr rfl]

/-- Settles O15: `O` is the first class tested, and its rule writes CLS_SEEN and IDX alone. -/
theorem clsOSetsSeen : Obligations.ClsOSetsSeen := by
  refine ⟨fun cfg => ?_, fun s => rfl⟩
  change decode cfg .cls [symO] = _
  rw [decode_cls_symbol, decodeCls_symO]

/-- Settles O16: the full stop is the second class tested, and its rule writes CLS_SEEN, CLS_E and IDX alone. -/
theorem clsDotClearsEnglish : Obligations.ClsDotClearsEnglish := by
  refine ⟨fun cfg => ?_, fun s => rfl⟩
  change decode cfg .cls [symDot] = _
  rw [decode_cls_symbol, decodeCls_symDot]

/-- Settles O17: an English symbol other than `O` is K_ENG; the full stop needs no exception, because it is not
English. -/
theorem clsEngClearsBraille : Obligations.ClsEngClearsBraille := by
  refine ⟨fun cfg c ho he => ?_, fun c s => rfl⟩
  have hclass : clsClass cfg c = .eng := (clsClass_eq_eng_iff cfg c).mpr ⟨ho, (isEnglish_iff cfg c).mpr he⟩
  rw [decode_cls_symbol, decodeCls_of_eng cfg c hclass]

/-- Settles O18: a symbol that is neither Braille nor English is K_OTHER. -/
theorem clsOtherClearsBoth : Obligations.ClsOtherClearsBoth := by
  refine ⟨fun cfg c ho hd hletter hdigit hspace => ?_, fun c s => rfl⟩
  have he : isEnglish cfg c = false := (isEnglish_eq_false_iff cfg c).mpr ⟨hletter, hdigit, hspace⟩
  have hclass : clsClass cfg c = .other := (clsClass_eq_other_iff cfg c).mpr ⟨ho, hd, he⟩
  rw [decode_cls_symbol, decodeCls_of_other cfg c hclass]

/-! ### The verdict and the end of the input -/

theorem State.verdict_eq_other_iff (s : State) :
    s.verdict = .other ↔ s.clsSeen = false ∨ (s.clsB = false ∧ s.clsE = false) := by
  unfold State.verdict
  split_ifs with hseen hb he <;> simp [*]

theorem State.verdict_eq_braille_iff (s : State) : s.verdict = .braille ↔ s.clsSeen = true ∧ s.clsB = true := by
  unfold State.verdict
  split_ifs with hseen hb he <;> simp [*]

theorem State.verdict_eq_english_iff (s : State) :
    s.verdict = .english ↔ s.clsSeen = true ∧ s.clsB = false ∧ s.clsE = true := by
  unfold State.verdict
  split_ifs with hseen hb he <;> simp [*]

/-- `CLS.END` of the command CLASSIFY finishes (43_dispatch.md R163). -/
theorem exec_clsEnd_of_cmdClassify (s : State) (hp : s.phase = .classify) (hcmd : s.cmd = .classify) :
    exec .clsEnd s = .next (State.finish { s with tag := some s.verdict }) := by
  simp only [exec, execClsEnd, runCommand, execCmdClassify, hp, hcmd]

/-- Where `CLS.END` of the command TRANSLATE goes on with the tag `g` (43_dispatch.md R162; log 22 for the tag beside
the raise). -/
def State.translateBranch (s : State) : Tag → State
  | .braille => State.handOver { s with tag := some .braille } .preflight
  | .english => State.handOver { s with tag := some .english } .encode
  | .other => State.raise { s with tag := some .other } .unclassifiableInput s.inLen

theorem exec_clsEnd_of_cmdTranslate (s : State) (hp : s.phase = .classify) (hcmd : s.cmd = .translate) (g : Tag)
    (hg : s.verdict = g) : exec .clsEnd s = .next (s.translateBranch g) := by
  have hrun : exec .clsEnd s = exec .cmdTranslate { s with tag := some g } := by
    simp only [exec, execClsEnd, runCommand, hcmd, hg]
  rw [hrun, execCmdTranslate_of_classify { s with tag := some g } hp g rfl]
  cases g <;> rfl

/-- Settles O19, by the command and the verdict. That TAG keeps its value beside the raise is the model's reading
(log 22). -/
theorem clsEndWritesTagThenRunsTheCommand : Obligations.ClsEndWritesTagThenRunsTheCommand := by
  refine ⟨fun cfg => rfl, fun s hp => ⟨exec_clsEnd_of_cmdClassify s hp, fun hcmd hseen hb => ?_,
    fun hcmd hseen hb he => ?_, fun hcmd hother => ?_, s.verdict_eq_other_iff, s.verdict_eq_braille_iff,
    s.verdict_eq_english_iff⟩⟩
  · exact exec_clsEnd_of_cmdTranslate s hp hcmd .braille (s.verdict_eq_braille_iff.mpr ⟨hseen, hb⟩)
  · exact exec_clsEnd_of_cmdTranslate s hp hcmd .english (s.verdict_eq_english_iff.mpr ⟨hseen, hb, he⟩)
  · exact exec_clsEnd_of_cmdTranslate s hp hcmd .other (s.verdict_eq_other_iff.mpr hother)

/-! ### START as a step -/

/-- The block that START leaves when it is the only turn pending (43_dispatch.md R161). -/
def State.started (s : State) : State := { s.startInit with phase := s.cmd.firstPhase, pending := [] }

theorem step_starting (s : State) (h : s.phase.busy = false) : step s.starting = .next s.started := by
  calc step s.starting = exec .ctrlStart { s with pending := [] } := rfl
    _ = runCommand (State.startInit { s with pending := [] }) := exec_ctrlStart_of_not_busy { s with pending := [] } h
    _ = .next s.started := runCommand_of_not_busy (State.startInit { s with pending := [] }) h

theorem runSteps_starting (n : Nat) (s : State) (h : s.phase.busy = false) :
    runSteps (1 + n) s.starting = runSteps n s.started := by
  rw [Nat.add_comm]
  exact runSteps_succ n s.starting s.started (step_starting s h)

theorem runSteps_one (s t : State) (h : step s = .next t) : runSteps 1 s = .next t :=
  (runSteps_succ 0 s t h).trans (runSteps_zero t)

/-! ### The phase CLASSIFY -/

/-- A block in which the classifier has read the first `n` symbols of the input (10_state.md R27). -/
def State.classified (s : State) (n : Nat) : State :=
  { s with
    idx := n
    clsSeen := decide (0 < n)
    clsB := (s.memRead 0 n).all isBraille
    clsE := (s.memRead 0 n).all (isEnglish s.cfg) }

/-- START leaves the classifier before the first symbol. -/
theorem State.started_classified_zero (s : State) : s.started.classified 0 = s.started := rfl

/-- One symbol more. -/
theorem State.classified_succ (s : State) (n : Nat) :
    (s.classified n).afterCls (s.inAt n) = s.classified (n + 1) := by
  have hread : s.memRead 0 (n + 1) = s.memRead 0 n ++ [s.inAt n] := by rw [s.memRead_succ, Nat.zero_add]
  have hsnoc (p : Sym → Bool) : (s.memRead 0 (n + 1)).all p = ((s.memRead 0 n).all p && p (s.inAt n)) := by
    rw [hread, List.all_append, List.all_cons, List.all_nil, Bool.and_true]
  simp only [State.classified, State.afterCls, State.advance, hsnoc, Nat.succ_pos, decide_true]

/-- In phase CLASSIFY the sequencer reads one symbol where one is left (43_dispatch.md R168). -/
theorem State.sequence_of_classify (s : State) (hp : s.phase = .classify) (hidx : s.idx < s.inLen) :
    s.sequence = .next (s.afterCls (s.inAt s.idx)) := by
  have hwindow : s.window 1 = [s.inAt s.idx] := s.window_full 1 hidx
  have hfetch : s.fetch = .instr (decodeCls s.cfg (s.inAt s.idx)) := by
    simp only [State.fetch, hp, State.fetchAt, hidx.le, if_true, hwindow, decode_cls_symbol]
  rw [State.sequence, hfetch]
  exact exec_decodeCls s (s.inAt s.idx)

/-- At the end of the input it executes `CLS.END`. -/
theorem State.sequence_of_classify_end (s : State) (hp : s.phase = .classify) (hidx : s.idx = s.inLen) :
    s.sequence = exec .clsEnd s := by
  have hfetch : s.fetch = .instr .clsEnd := by
    simp only [State.fetch, hp, State.fetchAt, hidx.le, if_true, s.window_end 1 hidx, decode]
  rw [State.sequence, hfetch]

section
variable (s : State) (hp : s.phase = .classify) (hpending : s.pending = [])
include hp hpending

theorem step_classified (n : Nat) (hn : n < s.inLen) : step (s.classified n) = .next (s.classified (n + 1)) := by
  rw [step_of_sequencerTurn _ _ (.free (s.classified n) hpending), State.sequence_of_classify (s.classified n) hp hn]
  exact congrArg _ (s.classified_succ n)

theorem step_classified_end : step (s.classified s.inLen) = exec .clsEnd (s.classified s.inLen) := by
  rw [step_of_sequencerTurn _ _ (.free (s.classified s.inLen) hpending)]
  exact State.sequence_of_classify_end (s.classified s.inLen) hp rfl

/-- The classifier reads one symbol per step, up to the end of the input. -/
theorem runSteps_classified (n : Nat) (hn : n ≤ s.inLen) :
    runSteps n (s.classified 0) = .next (s.classified n) := by
  induction n with
  | zero => exact runSteps_zero (s.classified 0)
  | succ n ih =>
    rw [runSteps_add n 1 _ _ (ih (Nat.le_of_succ_le hn))]
    exact runSteps_one _ _ (step_classified s hp hpending n hn)

end

/-- At the end of the input the verdict of the flags is `classify` of the input (40_classifier.md R100, R105). -/
theorem State.verdict_classified (s : State) : (s.classified s.inLen).verdict = classifyFn s.cfg s.input := by
  have hseen : decide (0 < s.inLen) = false ↔ s.inLen = 0 := by rw [decide_eq_false_iff_not, Nat.not_lt, Nat.le_zero]
  have hinput : s.memRead 0 s.inLen = s.input := rfl
  simp only [State.verdict, classifyFn, s.input_length, State.classified, hseen, hinput]

theorem State.started_input (s : State) : s.started.input = s.input := s.memRead_congr s.started rfl 0 s.inLen

/-- The same for the block that START leaves. -/
theorem State.verdict_started_classified (s : State) :
    (s.started.classified s.inLen).verdict = classifyFn s.cfg s.input := by
  rw [← s.started_input]
  exact s.started.verdict_classified

/-- A command that classifies executes `CLS.END`, with the whole input read, IN_LEN + 1 steps after its START. -/
theorem runSteps_starting_classifies (s t : State) (hbusy : s.phase.busy = false)
    (hcmd : s.cmd.firstPhase = .classify) (hend : exec .clsEnd (s.started.classified s.inLen) = .next t) :
    runSteps (1 + (s.inLen + 1)) s.starting = .next t := by
  have hread : runSteps s.inLen s.started = .next (s.started.classified s.inLen) := by
    rw [← runSteps_classified s.started hcmd rfl s.inLen le_rfl, s.started_classified_zero]
  have hlast : step (s.started.classified s.inLen) = .next t :=
    (step_classified_end s.started hcmd rfl).trans hend
  rw [runSteps_starting _ s hbusy, runSteps_add s.inLen 1 _ _ hread]
  exact runSteps_one _ t hlast

/-- Settles O54: the classifier reads the whole input, and `CLS.END` commits its verdict with the empty output of
START. -/
theorem classifyCommandComputesClassify : Obligations.ClassifyCommandComputesClassify := by
  intro s hbusy hcmd
  have hphase : s.cmd.firstPhase = .classify := s.cmd.firstPhase_eq_classify_iff.mpr (.inr hcmd)
  have hend := exec_clsEnd_of_cmdClassify (s.started.classified s.inLen) hphase hcmd
  have htag := congrArg some s.verdict_started_classified
  exact ⟨_, runSteps_starting_classifies s _ hbusy hphase hend, rfl, htag, rfl, rfl⟩

end Sys2Proof.Machine
end

section
/-!
Which errors the functions answer (60_exceptions.md R176, R177): each kind has one function, and on ASCII input the
encoder refuses nothing that the classifier calls English (40_classifier.md R107).
-/
namespace Sys2Proof.Machine

/-! ### The encoder -/

/-- The encoder answers one kind of error, and only on an input with a symbol that has no cell (R177). -/
theorem encodeLoop_err (cfg : Config) (num : Bool) (i : Nat) (out s : List Sym) (k : ErrKind) (pos : Nat)
    (h : encodeLoop cfg num i out s = .err k pos) : k = .unsupportedCharacter ∧ ∃ c ∈ s, encClass c = .other := by
  induction s generalizing num i out with
  | nil => cases h
  | cons c rest ih =>
    cases hc : encClass c <;> simp only [encodeLoop, hc] at h
    case other =>
      cases h
      exact ⟨rfl, c, List.mem_cons_self, hc⟩
    all_goals
      obtain ⟨hk, d, hd, hother⟩ := ih _ _ _ h
      exact ⟨hk, d, List.mem_cons_of_mem c hd, hother⟩

/-! ### The decoder -/

/-- The four error kinds of the decoder (R178 to R181). -/
def ErrKind.ofDecoder : ErrKind → Bool
  | .truncatedCell | .unknownCell | .invalidSequence | .danglingCapital => true
  | .missingArguments | .unclassifiableInput | .unsupportedCharacter => false

/-- By the branches of the loop: five go on behind a cell, one answers the output, the others an error. -/
theorem decodeLoop_err (cfg : Config) (cap num : Bool) (i : Nat) (out s : List Sym) (k : ErrKind) (pos : Nat)
    (h : decodeLoop cfg cap num i out s = .err k pos) : k.ofDecoder = true := by
  fun_induction decodeLoop cfg cap num i out s
  case case3 ih | case5 ih | case7 ih | case10 ih | case11 ih => exact ih h
  case case14 => cases h
  all_goals
    cases h
    rfl

theorem decodeFn_err (cfg : Config) (s : List Sym) (k : ErrKind) (pos : Nat) (h : decodeFn cfg s = .err k pos) :
    k.ofDecoder = true := by
  unfold decodeFn at h
  split_ifs at h
  · cases h
    rfl
  · exact decodeLoop_err cfg false false 0 [] s k pos h

/-! ### The function translate -/

theorem isEnglish_of_classifyFn (cfg : Config) (s : List Sym) (h : classifyFn cfg s = .english) :
    ∀ c ∈ s, isEnglish cfg c = true := by
  unfold classifyFn at h
  split_ifs at h with hempty hb he
  exact List.all_eq_true.mp he

/-- Which function answers an error of `translate`, and what the input then is (43_dispatch.md R160). -/
theorem translateFn_err (cfg : Config) (s : List Sym) (k : ErrKind) (pos : Nat)
    (h : translateFn cfg s = .err k pos) :
    (classifyFn cfg s = .braille ∧ k.ofDecoder = true) ∨
    (classifyFn cfg s = .english ∧ k = .unsupportedCharacter ∧ ∃ c ∈ s, encClass c = .other) ∨
    (classifyFn cfg s = .other ∧ k = .unclassifiableInput) := by
  cases hg : classifyFn cfg s <;> simp only [translateFn, hg] at h
  case braille => exact .inl ⟨rfl, decodeFn_err cfg s k pos h⟩
  case english => exact .inr (.inl ⟨rfl, encodeLoop_err cfg false 0 [] s k pos h⟩)
  case other =>
    cases h
    exact .inr (.inr ⟨rfl, rfl⟩)

/-- A symbol that the classifier calls English and the encoder refuses is not ASCII (40_classifier.md R107). -/
theorem translateFn_ne_unsupportedCharacter_of_ascii (cfg : Config) (s : List Sym)
    (hascii : ∀ c ∈ s, c.toNat < 0x80) (pos : Nat) : translateFn cfg s ≠ .err .unsupportedCharacter pos := by
  intro h
  obtain ⟨-, hk⟩ | ⟨hg, -, c, hc, hother⟩ | ⟨-, hk⟩ := translateFn_err cfg s _ pos h
  · cases hk
  · have he : isEnglish cfg c = true := isEnglish_of_classifyFn cfg s hg c hc
    exact (isEnglish_iff_of_ascii cfg c (hascii c hc)).mp he hother
  · cases hk

theorem translateFn_unclassifiableInput_iff (cfg : Config) (s : List Sym) :
    (∃ pos, translateFn cfg s = .err .unclassifiableInput pos) ↔ classifyFn cfg s = .other := by
  constructor
  · rintro ⟨pos, h⟩
    obtain ⟨-, hk⟩ | ⟨-, hk, -⟩ | ⟨hg, -⟩ := translateFn_err cfg s _ pos h
    · cases hk
    · cases hk
    · exact hg
  · intro hg
    exact ⟨s.length, by rw [translateFn, hg]⟩

/-- Settles O60, by the function that answers the error. -/
theorem translateErrorsFollowTheClassifier : Obligations.TranslateErrorsFollowTheClassifier := fun cfg s =>
  ⟨translateFn_ne_unsupportedCharacter_of_ascii cfg s, translateFn_unclassifiableInput_iff cfg s⟩

end Sys2Proof.Machine
end

section
/-!
What the encoder stages for one character and for a text (41_encoder.md R115 to R120): the machine's instructions and the
function `encode` are both stated in terms of the same cells.
-/
namespace Sys2Proof.Machine

/-! ### The cells of a character and of a text -/

/-- What the encoder stages for the character `c` when ENC_NUM is `num`; nothing where it refuses (R116 to R120). -/
def encCells (cfg : Config) (num : Bool) (c : Sym) : List Sym :=
  match encClass c with
  | .upper => cellStr capCell ++ cellStr (letterCell cfg (letterIndex 0x41 c))
  | .lower => cellStr (letterCell cfg (letterIndex 0x61 c))
  | .digit => (if num then [] else cellStr numCell) ++ cellStr (digitCell cfg (digitValue c))
  | .space => cellStr spaceCell
  | .other => []

/-- What it stages for a text that begins when ENC_NUM is `num`; after each character ENC_NUM says whether it was a
digit (10_state.md R24). -/
def encText (cfg : Config) (num : Bool) : List Sym → List Sym
  | [] => []
  | c :: rest => encCells cfg num c ++ encText cfg (isDigit c) rest

theorem isDigit_eq_of_encClass (c : Sym) (k : EncClass) (h : encClass c = k) : isDigit c = decide (k = .digit) := by
  rw [← h, Bool.eq_iff_iff, decide_eq_true_iff]
  exact (encClass_eq_digit_iff c).symm

/-- The loop of `encode` refuses a character at its index. -/
theorem encodeLoop_cons_other (cfg : Config) (num : Bool) (i : Nat) (out : List Sym) (c : Sym) (rest : List Sym)
    (h : encClass c = .other) : encodeLoop cfg num i out (c :: rest) = .err .unsupportedCharacter i := by
  rw [encodeLoop, h]

/-- It appends the cells of every other character and goes on. -/
theorem encodeLoop_cons (cfg : Config) (num : Bool) (i : Nat) (out : List Sym) (c : Sym) (rest : List Sym)
    (h : encClass c ≠ .other) :
    encodeLoop cfg num i out (c :: rest) = encodeLoop cfg (isDigit c) (i + 1) (out ++ encCells cfg num c) rest := by
  cases hk : encClass c <;> rw [encodeLoop, encCells, hk, isDigit_eq_of_encClass c _ hk]
  case other => exact absurd hk h
  case upper => rw [List.append_assoc]; rfl
  case digit => cases num <;> simp
  all_goals rfl

/-- `encode` answers a string exactly for a text without refused characters, and then it is the cells of the text. -/
theorem encodeLoop_eq_ok_iff (cfg : Config) (num : Bool) (i : Nat) (out s b : List Sym) :
    encodeLoop cfg num i out s = .ok b ↔ (∀ c ∈ s, encClass c ≠ .other) ∧ b = out ++ encText cfg num s := by
  induction s generalizing num i out with
  | nil => simp [encodeLoop, encText, eq_comm]
  | cons c rest ih =>
    by_cases hc : encClass c = .other
    · simp [encodeLoop_cons_other cfg num i out c rest hc, hc]
    · rw [encodeLoop_cons cfg num i out c rest hc, ih]
      simp [encText, hc]

theorem encodeFn_eq_ok_iff (cfg : Config) (s b : List Sym) :
    encodeFn cfg s = .ok b ↔ (∀ c ∈ s, encClass c ≠ .other) ∧ b = encText cfg false s :=
  encodeLoop_eq_ok_iff cfg false 0 [] s b

/-! ### The instructions -/

theorem exec_encOther (s : State) (c : Sym) : exec (.encOther c) s = .next (s.raise .unsupportedCharacter s.idx) := rfl

theorem exec_encEnd (s : State) : exec .encEnd s = .next s.finish := rfl

/-- The state after an instruction of the encoder that has staged `v` and left ENC_NUM at `num`. -/
def State.staging (s : State) (num : Bool) (v : List Sym) : State := (State.emit { s with encNum := num } v).advance 1

theorem exec_encUpper (s : State) (i : Fin 26) :
    exec (.encUpper i) s = .next (s.staging false (cellStr capCell ++ cellStr (letterCell s.cfg i))) := rfl

theorem exec_encLower (s : State) (i : Fin 26) :
    exec (.encLower i) s = .next (s.staging false (cellStr (letterCell s.cfg i))) := rfl

theorem exec_encSpace (s : State) : exec .encSpace s = .next (s.staging false (cellStr spaceCell)) := rfl

/-- The two `Emit`s of the first digit of a run are one (R118). -/
theorem exec_encDigit_eq_staging (s : State) (d : Fin 10) : exec (.encDigit d) s =
    .next (s.staging true ((if s.encNum then [] else cellStr numCell) ++ cellStr (digitCell s.cfg d))) := by
  cases hn : s.encNum with
  | false =>
    rw [State.staging, if_neg Bool.false_ne_true, ← State.emit_emit]
    simp only [exec, execEncDigit, hn, if_true]
    rfl
  | true =>
    have hs : { s with encNum := true } = s := by rw [← hn]
    rw [State.staging, hs, if_pos rfl, List.nil_append]
    simp only [exec, execEncDigit, hn, Bool.true_eq_false, if_false]

/-- The encoder stages the cells of every character that it does not refuse. -/
theorem exec_decodeEnc_of_ne_other (s : State) (c : Sym) (h : encClass c ≠ .other) :
    exec (decodeEnc c) s = .next (s.staging (isDigit c) (encCells s.cfg s.encNum c)) := by
  cases hk : encClass c <;> rw [decodeEnc, encCells, hk, isDigit_eq_of_encClass c _ hk]
  case upper => exact exec_encUpper s _
  case lower => exact exec_encLower s _
  case digit => exact exec_encDigit_eq_staging s _
  case space => exact exec_encSpace s
  case other => exact absurd hk h

end Sys2Proof.Machine
end

section
/-!
The command ENCODE as a whole (41_encoder.md R115, R123, 43_dispatch.md R164, R169): the machine's phase ENCODE and the
loop of `encode` take one character at a time and stage the same cells.
-/
namespace Sys2Proof.Machine

theorem decode_enc_symbol (cfg : Config) (c : Sym) : decode cfg .enc [c] = .ok (decodeEnc c) := rfl

/-- In phase ENCODE the sequencer reads one symbol where one is left (43_dispatch.md R168). -/
theorem State.sequence_of_encode (s : State) (hp : s.phase = .encode) (hidx : s.idx < s.inLen) :
    s.sequence = exec (decodeEnc (s.inAt s.idx)) s := by
  have hwindow : s.window 1 = [s.inAt s.idx] := s.window_full 1 hidx
  have hfetch : s.fetch = .instr (decodeEnc (s.inAt s.idx)) := by
    simp only [State.fetch, hp, State.fetchAt, hidx.le, if_true, hwindow, decode_enc_symbol]
  rw [State.sequence, hfetch]

/-- At the end of the input it executes `ENC.END`. -/
theorem State.sequence_of_encode_end (s : State) (hp : s.phase = .encode) (hidx : s.idx = s.inLen) :
    s.sequence = .next s.finish := by
  have hfetch : s.fetch = .instr .encEnd := by
    simp only [State.fetch, hp, State.fetchAt, hidx.le, if_true, s.window_end 1 hidx, decode]
  rw [State.sequence, hfetch]
  exact exec_encEnd s

/-- A block in DONE with no turn pending stays as it is (60_exceptions.md R194; log 13). -/
theorem runSteps_of_done (s : State) (hp : s.phase = .done) (hpending : s.pending = []) (n : Nat) :
    runSteps n s = .next s := by
  have hstep : step s = .next s := by
    rw [step_of_sequencerTurn s s (.free s hpending), State.sequence, State.fetch, hp]
  induction n with
  | zero => exact runSteps_zero s
  | succ n ih => rw [runSteps_succ n s s hstep, ih]

/-- The string `out` is what is staged so far (10_state.md R23, R39). -/
def State.HasStaged (s : State) (out : List Sym) : Prop :=
  s.olen = out.length ∧ s.obuf.readList 0 s.olen = out.map some

theorem State.HasStaged.staging {s : State} {out : List Sym} (h : s.HasStaged out) (num : Bool) (v : List Sym) :
    (s.staging num v).HasStaged (out ++ v) := by
  obtain ⟨holen, hread⟩ := h
  constructor
  · rw [List.length_append, ← holen]
    rfl
  · rw [List.map_append, ← hread]
    exact s.obuf.readList_writeList_append s.olen v

/-- A block in phase ENCODE with no turn pending, no error and `out` staged. -/
structure State.Encoding (s : State) (out : List Sym) : Prop where
  phase : s.phase = .encode
  pending : s.pending = []
  err : s.err = none
  staged : s.HasStaged out

theorem State.Encoding.staging {s : State} {out : List Sym} (h : s.Encoding out) (num : Bool) (v : List Sym) :
    (s.staging num v).Encoding (out ++ v) :=
  ⟨h.phase, h.pending, h.err, h.staged.staging num v⟩

theorem State.Encoding.step_eq_sequence {s : State} {out : List Sym} (h : s.Encoding out) : step s = s.sequence :=
  step_of_sequencerTurn s s (.free s h.pending)

/-- `Finish()` shows the host what is staged. -/
theorem State.Encoding.finish_shows {s : State} {out : List Sym} (h : s.Encoding out) : s.finish.shows (.ok out) := by
  obtain ⟨holen, hread⟩ := h.staged
  exact ⟨rfl, h.err, holen, hread⟩

theorem State.raise_shows (s : State) (k : ErrKind) (pos : Nat) : (s.raise k pos).shows (.err k pos) :=
  ⟨rfl, rfl, rfl, rfl⟩

theorem State.staging_memRead (s : State) (num : Bool) (v : List Sym) (i n : Nat) :
    (s.staging num v).memRead i n = s.memRead i n := s.memRead_congr (s.staging num v) rfl i n

/-- With `n` characters left, `n + 1` steps of the encoder show the host what the loop of `encode` answers for them; a
refused character ends the command early. -/
theorem runSteps_encoding (n : Nat) (s : State) (out : List Sym) (h : s.Encoding out) (hidx : s.idx + n = s.inLen) :
    ∃ t, runSteps (n + 1) s = .next t ∧
      t.shows (encodeLoop s.cfg s.encNum s.idx out (s.memRead s.idx n)) ∧ t.tag = s.tag := by
  induction n generalizing s out with
  | zero =>
    have hstep : step s = .next s.finish := h.step_eq_sequence.trans (s.sequence_of_encode_end h.phase hidx)
    exact ⟨s.finish, runSteps_one s _ hstep, h.finish_shows, rfl⟩
  | succ n ih =>
    have hread : s.memRead s.idx (n + 1) = s.inAt s.idx :: s.memRead (s.idx + 1) n := rfl
    have hstep : step s = exec (decodeEnc (s.inAt s.idx)) s :=
      h.step_eq_sequence.trans (s.sequence_of_encode h.phase (by omega))
    rw [hread]
    by_cases hc : encClass (s.inAt s.idx) = .other
    · rw [decodeEnc_of_other _ hc, exec_encOther] at hstep
      rw [encodeLoop_cons_other _ _ _ _ _ _ hc, runSteps_succ _ _ _ hstep]
      exact ⟨_, runSteps_of_done (s.raise _ _) rfl h.pending _, s.raise_shows _ _, rfl⟩
    · rw [exec_decodeEnc_of_ne_other s _ hc] at hstep
      rw [encodeLoop_cons _ _ _ _ _ _ hc, runSteps_succ _ _ _ hstep, ← s.staging_memRead]
      exact ih _ _ (h.staging _ _) ((Nat.succ_add_eq_add_succ s.idx n).trans hidx)

/-- The whole input, read from a fresh start of the encoder. -/
theorem runSteps_encodes (s : State) (h : s.Encoding []) (hidx : s.idx = 0) (hnum : s.encNum = false) :
    ∃ t, runSteps (s.inLen + 1) s = .next t ∧ t.shows (encodeFn s.cfg s.input) ∧ t.tag = s.tag := by
  have hrun := runSteps_encoding s.inLen s [] h (by rw [hidx, Nat.zero_add])
  rwa [hidx, hnum] at hrun

/-- Settles O52: START leaves a fresh encoder, and its steps simulate the loop of `encode`. The START as a turn is the
model's form (log 1). -/
theorem encodeCommandComputesEncode : Obligations.EncodeCommandComputesEncode := by
  intro s hbusy hcmd
  have hphase : s.started.phase = .encode := s.cmd.firstPhase_eq_encode_iff.mpr hcmd
  have hrun := runSteps_encodes s.started ⟨hphase, rfl, rfl, rfl, rfl⟩ rfl rfl
  rw [runSteps_starting _ s hbusy, ← s.started_input]
  exact hrun

end Sys2Proof.Machine
end

section
/-!
The instructions of the encoder one by one (41_encoder.md R116 to R121): how a symbol is read, and what is staged and
left unchanged.
-/
namespace Sys2Proof.Machine

theorem decodeEnc_of_upper (c : Sym) (hlo : 0x41 ≤ c.toNat) (hhi : c.toNat ≤ 0x5A) :
    decodeEnc c = .encUpper (letterIndex 0x41 c) := by
  obtain ⟨hupper, -⟩ := encoderClassesByRange c
  rw [decodeEnc, hupper.mpr ⟨hlo, hhi⟩]

theorem decodeEnc_of_lower (c : Sym) (hlo : 0x61 ≤ c.toNat) (hhi : c.toNat ≤ 0x7A) :
    decodeEnc c = .encLower (letterIndex 0x61 c) := by
  obtain ⟨-, hlower, -⟩ := encoderClassesByRange c
  rw [decodeEnc, hlower.mpr ⟨hlo, hhi⟩]

theorem decodeEnc_of_digit (c : Sym) (hlo : 0x30 ≤ c.toNat) (hhi : c.toNat ≤ 0x39) :
    decodeEnc c = .encDigit (digitValue c) := by
  obtain ⟨-, -, hdigit, -⟩ := encoderClassesByRange c
  rw [decodeEnc, hdigit.mpr ⟨hlo, hhi⟩]

/-- The string `v` is staged at OLEN, and beside ENC_NUM and IDX nothing else changes. -/
theorem State.stages_staging (s : State) (num : Bool) (v : List Sym) : Stages s (s.staging num v) v :=
  State.stages_emit { s with encNum := num } v

theorem State.staging_frame (s : State) (num : Bool) (v : List Sym) :
    s.staging num v = { s with encNum := num, idx := s.idx + 1, olen := (s.staging num v).olen,
                               obuf := (s.staging num v).obuf } := rfl

/-- Settles O20, by the one `Emit` of the instruction. -/
theorem encUpperStagesCapitalAndLetter : Obligations.EncUpperStagesCapitalAndLetter := by
  refine ⟨fun cfg c hlo hhi => ?_, fun i s => ?_⟩
  · refine ⟨letterIndex 0x41 c, letterIndex_val 0x41 c (by omega), ?_⟩
    rw [decode_enc_symbol, decodeEnc_of_upper c hlo hhi]
  · exact ⟨_, exec_encUpper s i, s.staging_frame _ _, s.stages_staging _ _⟩

/-- Settles O21, by the one `Emit` of the instruction. -/
theorem encLowerStagesTheLetter : Obligations.EncLowerStagesTheLetter := by
  refine ⟨fun cfg c hlo hhi => ?_, fun i s => ?_⟩
  · refine ⟨letterIndex 0x61 c, letterIndex_val 0x61 c (by omega), ?_⟩
    rw [decode_enc_symbol, decodeEnc_of_lower c hlo hhi]
  · exact ⟨_, exec_encLower s i, s.staging_frame _ _, s.stages_staging _ _⟩

/-- Settles O22, by the value of ENC_NUM. -/
theorem encDigitStagesIndicatorOncePerRun : Obligations.EncDigitStagesIndicatorOncePerRun := by
  refine ⟨fun cfg c hlo hhi => ?_, fun d s => ?_⟩
  · refine ⟨digitValue c, digitValue_val c (by omega), ?_⟩
    rw [decode_enc_symbol, decodeEnc_of_digit c hlo hhi]
  · refine ⟨_, exec_encDigit_eq_staging s d, s.staging_frame _ _, fun hfirst => ?_, fun hrun => ?_⟩
    · rw [hfirst]
      exact s.stages_staging _ _
    · rw [hrun]
      exact s.stages_staging _ _

/-- Settles O23, by the one `Emit` of the instruction; the space cell is written out. -/
theorem encSpaceStagesTheSpaceCell : Obligations.EncSpaceStagesTheSpaceCell :=
  ⟨fun _ => rfl, fun s => ⟨_, exec_encSpace s, s.staging_frame _ _, s.stages_staging _ _⟩⟩

/-- Settles O24: a symbol outside the four ranges is of class OTHER, whose instruction raises. -/
theorem encOtherRaisesUnsupportedCharacter : Obligations.EncOtherRaisesUnsupportedCharacter := by
  refine ⟨fun cfg c hupper hlower hdigit hspace => ?_, fun c s => exec_encOther s c⟩
  obtain ⟨-, -, -, -, hother⟩ := encoderClassesByRange c
  rw [decode_enc_symbol, decodeEnc_of_other c (hother.mpr ⟨hupper, hlower, hdigit, hspace⟩)]

/-- Settles O25: the instruction is `Finish()`. -/
theorem encEndCommitsTheOutput : Obligations.EncEndCommitsTheOutput := ⟨fun _ => rfl, exec_encEnd⟩

end Sys2Proof.Machine
end

section
/-!
The length of what the encoder writes (41_encoder.md R123): one cell for each character, one more for each capital, and
one more for each maximal run of digits, counted where it begins.
-/
namespace Sys2Proof.Machine

/-! ### Where the runs of digits begin -/

/-- The symbol at index `n` is a digit. -/
def digitAt (s : List Sym) (n : Nat) : Bool := ((s[n]?).map isDigit).getD false

/-- A run of digits begins at index `n`; `num` says whether a digit stands before the text. -/
def runBegins (num : Bool) (s : List Sym) (n : Nat) : Bool :=
  digitAt s n && !(if n = 0 then num else digitAt s (n - 1))

/-- The number of runs of digits in `s` that begin in it. -/
def digitRuns (num : Bool) (s : List Sym) : Nat := (List.range s.length).countP (runBegins num s)

theorem runBegins_cons_zero (num : Bool) (c : Sym) (rest : List Sym) :
    runBegins num (c :: rest) 0 = (isDigit c && !num) := rfl

theorem runBegins_cons_succ (num : Bool) (c : Sym) (rest : List Sym) (n : Nat) :
    runBegins num (c :: rest) (n + 1) = runBegins (isDigit c) rest n := by
  cases n <;> rfl

theorem digitRuns_cons (num : Bool) (c : Sym) (rest : List Sym) :
    digitRuns num (c :: rest) = (isDigit c && !num).toNat + digitRuns (isDigit c) rest := by
  have hsucc : runBegins num (c :: rest) ∘ Nat.succ = runBegins (isDigit c) rest :=
    funext (runBegins_cons_succ num c rest)
  rw [digitRuns, List.length_cons, List.range_succ_eq_map, List.countP_cons, List.countP_map, hsucc,
    runBegins_cons_zero, Nat.add_comm]
  cases isDigit c && !num <;> rfl

theorem runBegins_of_none (num : Bool) (s : List Sym) (n : Nat) (h : s[n]? = none) : runBegins num s n = false := by
  rw [runBegins, digitAt, h, Option.map_none, Option.getD_none, Bool.false_and]

/-- In a whole text a run begins at a digit that is the first symbol or stands behind a symbol that is no digit. -/
theorem runBegins_false_of_some (s : List Sym) (n : Nat) (c : Sym) (h : s[n]? = some c) :
    runBegins false s n = (isDigit c && (n == 0 || !(((s[n - 1]?).map isDigit).getD false))) := by
  cases n <;> simp [runBegins, digitAt, h]

/-! ### The length and the alphabet -/

theorem isUpper_eq_of_encClass (c : Sym) (k : EncClass) (h : encClass c = k) : isUpper c = decide (k = .upper) := by
  obtain ⟨hupper, -⟩ := encoderClassesByRange c
  rw [← h, Bool.eq_iff_iff, decide_eq_true_iff, isUpper_iff, hupper]

theorem encCells_length (cfg : Config) (num : Bool) (c : Sym) (h : encClass c ≠ .other) :
    (encCells cfg num c).length = 6 * (1 + (isUpper c).toNat + (isDigit c && !num).toNat) := by
  cases hk : encClass c <;> rw [encCells, hk, isDigit_eq_of_encClass c _ hk, isUpper_eq_of_encClass c _ hk]
  case other => exact absurd hk h
  case digit => cases num <;> rfl
  all_goals rfl

theorem encText_length (cfg : Config) (num : Bool) (s : List Sym) (h : ∀ c ∈ s, encClass c ≠ .other) :
    (encText cfg num s).length = 6 * (s.length + s.countP isUpper + digitRuns num s) := by
  induction s generalizing num with
  | nil => rfl
  | cons c rest ih =>
    obtain ⟨hc, hrest⟩ := List.forall_mem_cons.mp h
    have hupper : (c :: rest).countP isUpper = (isUpper c).toNat + rest.countP isUpper := by
      rw [List.countP_cons, Nat.add_comm]
      cases isUpper c <;> rfl
    rw [encText, List.length_append, encCells_length cfg num c hc, ih (isDigit c) hrest, hupper, digitRuns_cons,
      List.length_cons]
    omega

theorem mem_encCells (cfg : Config) (num : Bool) (c d : Sym) (h : d ∈ encCells cfg num c) : d = symO ∨ d = symDot := by
  have hcell : ∃ b, d ∈ cellStr b := by
    cases hk : encClass c <;> rw [encCells, hk] at h
    case upper => exact (List.mem_append.mp h).elim (⟨_, ·⟩) (⟨_, ·⟩)
    case lower => exact ⟨_, h⟩
    case digit =>
      cases num
      · exact (List.mem_append.mp h).elim (⟨_, ·⟩) (⟨_, ·⟩)
      · exact ⟨_, h⟩
    case space => exact ⟨_, h⟩
    case other => cases h
  obtain ⟨b, hb⟩ := hcell
  exact mem_cellStr b d hb

theorem mem_encText (cfg : Config) (num : Bool) (s : List Sym) (d : Sym) (h : d ∈ encText cfg num s) :
    d = symO ∨ d = symDot := by
  induction s generalizing num with
  | nil => cases h
  | cons c rest ih =>
    obtain hc | hrest := List.mem_append.mp h
    · exact mem_encCells cfg num c d hc
    · exact ih (isDigit c) hrest

/-- Settles O59: the output is the cells of the text, which are counted character by character. -/
theorem encodedLengthCountsTheCells : Obligations.EncodedLengthCountsTheCells := by
  intro cfg s b h
  obtain ⟨hs, rfl⟩ := (encodeFn_eq_ok_iff cfg s b).mp h
  refine ⟨?_, mem_encText cfg false s⟩
  rw [encText_length cfg false s hs]
  refine congrArg (fun runs => 6 * (s.length + s.countP isUpper + runs)) (List.countP_congr fun n _ => ?_)
  cases hn : s[n]? with
  | none => simp only [runBegins_of_none false s n hn]
  | some c => simp only [runBegins_false_of_some s n c hn]

end Sys2Proof.Machine
end

section
/-!
The cells of the decoder (42_decoder.md R135, R137 to R143): which instruction a group of six symbols is, and what that
instruction does, said once for the machine and for the function `decode`.
-/
namespace Sys2Proof.Machine

/-! ### Which instruction a group is -/

/-- Every group is one of the six cell instructions (42_decoder.md R137). -/
theorem decodeCell_cases {P : Instr → Prop} (cfg : Config) (m : Bool) (g : List Sym)
    (cap : P (.decCap m)) (num : P (.decNum m)) (space : P (.decSpace m)) (digit : ∀ d, P (.decDigit d))
    (letter : ∀ j, P (.decLetter j)) (unknown : P (.decUnknown m g)) : P (decodeCell cfg m g) := by
  unfold decodeCell
  split
  · exact unknown
  · split_ifs
    · exact cap
    · exact num
    · exact space
    · split
      · exact digit _
      · exact unknown
    · split
      · exact letter _
      · exact unknown

theorem decodeCell_of_revDig_eq_none (cfg : Config) (b : Cell) (h : Unnamed b) (hd : revDig cfg b = none) :
    decodeCell cfg true (cellStr b) = .decUnknown true (cellStr b) :=
  decodeCell_of_not_cellKnown cfg true b ((cellKnown_true_eq_false_iff cfg b).mpr ⟨h, hd⟩)

theorem decodeCell_of_revLet_eq_none (cfg : Config) (b : Cell) (h : revLet cfg b = .none) :
    decodeCell cfg false (cellStr b) = .decUnknown false (cellStr b) :=
  decodeCell_of_not_cellKnown cfg false b ((cellKnown_false_eq_false_iff cfg b).mpr h)

/-- Settles O14: the named cells by evaluation, the others by their entry in the reverse table of the mode. -/
theorem cellDispatchFollowsTheClauses : Obligations.CellDispatchFollowsTheClauses := by
  intro cfg m g hlen
  rw [decode_dec_of_length_six cfg m g hlen]
  refine ⟨fun hb => congrArg _ (decodeCell_of_not_cellString cfg m g hb), fun b hb => ?_⟩
  obtain rfl := (cellBits_eq_some_iff g b).mp hb
  refine ⟨?_, ?_, ?_, ?_, ?_⟩
  · rintro rfl
    rfl
  · rintro rfl
    rfl
  · rintro rfl
    rfl
  · rintro ⟨hcap, hnum, hspace⟩ rfl
    have hu : Unnamed b := ⟨hspace, hcap, hnum⟩
    exact ⟨fun d hd => congrArg _ (decodeCell_of_revDig cfg b d hu hd),
      fun hd => congrArg _ (decodeCell_of_revDig_eq_none cfg b hu hd)⟩
  · rintro ⟨hcap, hnum, hspace⟩ rfl
    have hu : Unnamed b := ⟨hspace, hcap, hnum⟩
    exact ⟨fun j hj => congrArg _ (decodeCell_of_revLet cfg b j hu hj),
      fun hr => congrArg _ (decodeCell_of_revLet_eq_none cfg b hr)⟩

/-! ### What a cell does -/

/-- What a cell does: it is refused, or it leaves DEC_CAP and DEC_NUM at `cap` and `num` and stages `v`. -/
inductive CellEffect where
  | refuse (k : ErrKind)
  | goOn (cap num : Bool) (v : List Sym)

/-- Where a capital is pending only a letter may follow (R138 to R141). -/
def CellEffect.unlessCapital (cap : Bool) (e : CellEffect) : CellEffect :=
  if cap then .refuse .invalidSequence else e

/-- The effect of a cell instruction when DEC_CAP is `cap` and DEC_NUM is `num` (R138 to R143). -/
def cellEffect (cap num : Bool) : Instr → CellEffect
  | .decCap _ => .unlessCapital cap (.goOn true num [])
  | .decNum _ => .unlessCapital cap (.goOn cap true [])
  | .decSpace _ => .unlessCapital cap (.goOn cap false [symSpace])
  | .decDigit d => .unlessCapital cap (.goOn cap num [digitSym d])
  | .decLetter j => .goOn false num [if cap then upperSym j else lowerSym j]
  | _ => .refuse .unknownCell

/-- The block after a cell that has left the flags at `cap` and `num` and staged `v`. -/
def State.afterCell (s : State) (cap num : Bool) (v : List Sym) : State :=
  State.advance { s.emit v with decCap := cap, decNum := num } 6

/-- The effect on the block. -/
def CellEffect.onState (s : State) : CellEffect → State
  | .refuse k => s.raise k s.idx
  | .goOn cap num v => s.afterCell cap num v

/-- The effect in the loop of `decode` at index `i`, with `out` so far and `rest` behind the cell. -/
def CellEffect.inLoop (cfg : Config) (i : Nat) (out rest : List Sym) : CellEffect → Result
  | .refuse k => .err k i
  | .goOn cap num v => decodeLoop cfg cap num (i + 6) (out ++ v) rest

theorem CellEffect.next_onState_unlessCapital (s : State) (cap : Bool) (e : CellEffect) :
    (.next ((e.unlessCapital cap).onState s) : Host.Outcome State Fault Refusal) =
      if cap then .next (s.raise .invalidSequence s.idx) else .next (e.onState s) := by
  cases cap <;> rfl

@[simp] theorem CellEffect.inLoop_refuse (cfg : Config) (i : Nat) (out rest : List Sym) (k : ErrKind) :
    (CellEffect.refuse k).inLoop cfg i out rest = .err k i := rfl

@[simp] theorem CellEffect.inLoop_goOn (cfg : Config) (i : Nat) (out rest : List Sym) (cap num : Bool)
    (v : List Sym) :
    (CellEffect.goOn cap num v).inLoop cfg i out rest = decodeLoop cfg cap num (i + 6) (out ++ v) rest := rfl

@[simp] theorem CellEffect.inLoop_unlessCapital (cfg : Config) (i : Nat) (out rest : List Sym) (cap : Bool)
    (e : CellEffect) :
    (e.unlessCapital cap).inLoop cfg i out rest =
      if cap then .err .invalidSequence i else e.inLoop cfg i out rest := by
  cases cap <;> rfl

/-- The instruction that a group is read as is executed with its effect. -/
theorem exec_decodeCell (s : State) (cfg : Config) (m : Bool) (g : List Sym) :
    exec (decodeCell cfg m g) s = .next ((cellEffect s.decCap s.decNum (decodeCell cfg m g)).onState s) := by
  have guarded (e : CellEffect) := (e.next_onState_unlessCapital s s.decCap).symm
  exact decodeCell_cases (P := fun i => exec i s = .next ((cellEffect s.decCap s.decNum i).onState s)) cfg m g
    (cap := guarded (.goOn true s.decNum [])) (num := guarded (.goOn s.decCap true []))
    (space := guarded (.goOn s.decCap false [symSpace]))
    (digit := fun d => guarded (.goOn s.decCap s.decNum [digitSym d])) (letter := fun _ => rfl) (unknown := rfl)

/-- The loop of `decode` treats a group with the effect of the instruction that the group is. -/
theorem decodeLoop_append (cfg : Config) (cap num : Bool) (i : Nat) (out g rest : List Sym) (hlen : g.length = 6) :
    decodeLoop cfg cap num i out (g ++ rest) =
      (cellEffect cap num (decodeCell cfg num g)).inLoop cfg i out rest := by
  obtain ⟨c0, c1, c2, c3, c4, c5, rfl⟩ : ∃ c0 c1 c2 c3 c4 c5, g = [c0, c1, c2, c3, c4, c5] := by
    match g, hlen with
    | [c0, c1, c2, c3, c4, c5], _ => exact ⟨c0, c1, c2, c3, c4, c5, rfl⟩
  simp only [List.cons_append, List.nil_append, decodeLoop, decodeCell]
  cases hb : cellBits [c0, c1, c2, c3, c4, c5] with
  | none => rfl
  | some b =>
    by_cases hcap : b = capCell
    · simp [hcap, cellEffect]
    by_cases hnum : b = numCell
    · simp only [if_neg hcap, if_pos hnum]
      simp [cellEffect]
    by_cases hspace : b = spaceCell
    · simp only [if_neg hcap, if_neg hnum, if_pos hspace]
      simp [cellEffect]
    simp only [if_neg hcap, if_neg hnum, if_neg hspace]
    cases num with
    | true => cases revDig cfg b <;> simp [cellEffect]
    | false => cases revLet cfg b <;> rfl

end Sys2Proof.Machine
end

section
/-!
The command DECODE as a whole (42_decoder.md R135, R136, R144, R145, 43_dispatch.md R165, R169): the machine's phase
DECODE and the loop of `decode` take one cell at a time with the same effect.
-/
namespace Sys2Proof.Machine

/-- In phase DECODE the sequencer reads one cell where six symbols are left (43_dispatch.md R168). -/
theorem State.sequence_of_decode (s : State) (hp : s.phase = .decode) (hidx : s.idx + 6 ≤ s.inLen) :
    s.sequence = exec (decodeCell s.cfg s.decNum (s.memRead s.idx 6)) s := by
  have hle : s.idx ≤ s.inLen := by omega
  have hfetch : s.fetch = .instr (decodeCell s.cfg s.decNum (s.memRead s.idx 6)) := by
    simp only [State.fetch, hp, State.fetchAt, hle, if_true, s.window_full 6 hidx,
      decode_dec_of_length_six _ _ _ (s.memRead_length s.idx 6)]
  rw [State.sequence, hfetch]

/-- At the end of the input it executes `DEC.END`. -/
theorem State.sequence_of_decode_end (s : State) (hp : s.phase = .decode) (hidx : s.idx = s.inLen) :
    s.sequence = exec .decEnd s := by
  have hfetch : s.fetch = .instr .decEnd := by
    simp only [State.fetch, hp, State.fetchAt, hidx.le, if_true, s.window_end 6 hidx, decode, List.length_nil]
  rw [State.sequence, hfetch]

theorem State.sequence_of_preflight (s : State) (hp : s.phase = .preflight) : s.sequence = exec .decPre s := by
  rw [State.sequence, State.fetch, hp]

theorem exec_decPre_of_whole (s : State) (h : s.inLen % 6 = 0) : exec .decPre s = .next { s with phase := .decode } :=
  if_neg (not_not.mpr h)

theorem exec_decPre_of_partial (s : State) (h : s.inLen % 6 ≠ 0) :
    exec .decPre s = .next (s.raise .truncatedCell (6 * (s.inLen / 6))) := if_pos h

theorem exec_decEnd_of_pending (s : State) (h : s.decCap = true) :
    exec .decEnd s = .next (s.raise .danglingCapital s.inLen) := if_pos h

theorem exec_decEnd_of_not_pending (s : State) (h : s.decCap = false) : exec .decEnd s = .next s.finish :=
  if_neg (ne_true_of_eq_false h)

/-- A block in phase DECODE with no turn pending, no error and `out` staged. -/
structure State.Decoding (s : State) (out : List Sym) : Prop where
  phase : s.phase = .decode
  pending : s.pending = []
  err : s.err = none
  staged : s.HasStaged out

section
variable {s : State} {out : List Sym}

theorem State.HasStaged.afterCell (h : s.HasStaged out) (cap num : Bool) (v : List Sym) :
    (s.afterCell cap num v).HasStaged (out ++ v) := by
  obtain ⟨holen, hread⟩ := h
  constructor
  · rw [List.length_append, ← holen]
    rfl
  · rw [List.map_append, ← hread]
    exact s.obuf.readList_writeList_append s.olen v

theorem State.Decoding.afterCell (h : s.Decoding out) (cap num : Bool) (v : List Sym) :
    (s.afterCell cap num v).Decoding (out ++ v) :=
  ⟨h.phase, h.pending, h.err, h.staged.afterCell cap num v⟩

theorem State.Decoding.step_eq_sequence (h : s.Decoding out) : step s = s.sequence :=
  step_of_sequencerTurn s s (.free s h.pending)

/-- The step at the end of the input shows the host what the loop of `decode` answers there. -/
theorem State.Decoding.step_at_end (h : s.Decoding out) (hidx : s.idx = s.inLen) :
    ∃ t, step s = .next t ∧ t.shows (decodeLoop s.cfg s.decCap s.decNum s.idx out []) ∧ t.tag = s.tag := by
  have hstep : step s = exec .decEnd s := h.step_eq_sequence.trans (s.sequence_of_decode_end h.phase hidx)
  rw [hstep, hidx]
  cases hcap : s.decCap with
  | true => exact ⟨_, exec_decEnd_of_pending s hcap, s.raise_shows _ _, rfl⟩
  | false =>
    obtain ⟨holen, hread⟩ := h.staged
    exact ⟨_, exec_decEnd_of_not_pending s hcap, ⟨rfl, h.err, holen, hread⟩, rfl⟩

end

theorem State.afterCell_memRead (s : State) (cap num : Bool) (v : List Sym) (i n : Nat) :
    (s.afterCell cap num v).memRead i n = s.memRead i n := s.memRead_congr (s.afterCell cap num v) rfl i n

/-- With `n` cells left, `n + 1` steps of the decoder show the host what the loop of `decode` answers for them; a
refused cell ends the command early. -/
theorem runSteps_decoding (n : Nat) (s : State) (out : List Sym) (h : s.Decoding out)
    (hidx : s.idx + 6 * n = s.inLen) :
    ∃ t, runSteps (n + 1) s = .next t ∧
      t.shows (decodeLoop s.cfg s.decCap s.decNum s.idx out (s.memRead s.idx (6 * n))) ∧ t.tag = s.tag := by
  induction n generalizing s out with
  | zero =>
    obtain ⟨t, hstep, hshows, htag⟩ := h.step_at_end hidx
    exact ⟨t, runSteps_one s t hstep, hshows, htag⟩
  | succ n ih =>
    have hread : s.memRead s.idx (6 * (n + 1)) = s.memRead s.idx 6 ++ s.memRead (s.idx + 6) (6 * n) := by
      rw [Nat.mul_succ, Nat.add_comm, s.memRead_append]
    have hstep := (h.step_eq_sequence.trans (s.sequence_of_decode h.phase (by omega))).trans (exec_decodeCell s _ _ _)
    rw [hread, decodeLoop_append _ _ _ _ _ _ _ (s.memRead_length s.idx 6), runSteps_succ _ _ _ hstep]
    cases cellEffect s.decCap s.decNum (decodeCell s.cfg s.decNum (s.memRead s.idx 6)) with
    | refuse k => exact ⟨_, runSteps_of_done (s.raise k s.idx) rfl h.pending _, s.raise_shows k s.idx, rfl⟩
    | goOn cap num v =>
      rw [CellEffect.inLoop_goOn, ← s.afterCell_memRead cap num v]
      exact ih (s.afterCell cap num v) _ (h.afterCell cap num v) (show s.idx + 6 + 6 * n = s.inLen by omega)

theorem decodeFn_of_whole (cfg : Config) (s : List Sym) (h : s.length % 6 = 0) :
    decodeFn cfg s = decodeLoop cfg false false 0 [] s := if_neg (not_not.mpr h)

theorem decodeFn_of_partial (cfg : Config) (s : List Sym) (h : s.length % 6 ≠ 0) :
    decodeFn cfg s = .err .truncatedCell (6 * (s.length / 6)) := if_pos h

/-- An input of whole cells, read from a fresh start of phase DECODE. -/
theorem runSteps_decodes_cells (s : State) (h : s.Decoding []) (hidx : s.idx = 0) (hcap : s.decCap = false)
    (hnum : s.decNum = false) (hlen : s.inLen % 6 = 0) :
    ∃ t, runSteps (s.inLen / 6 + 1) s = .next t ∧ t.shows (decodeFn s.cfg s.input) ∧ t.tag = s.tag := by
  have hcells : 6 * (s.inLen / 6) = s.inLen := by omega
  have hrun := runSteps_decoding (s.inLen / 6) s [] h (by omega)
  rw [hidx, hcap, hnum, hcells] at hrun
  rwa [decodeFn_of_whole s.cfg s.input (s.input_length ▸ hlen)]

/-- The whole input, read from a fresh start of the preflight. -/
theorem runSteps_decodes (s : State) (hp : s.phase = .preflight) (h : State.Decoding { s with phase := .decode } [])
    (hidx : s.idx = 0) (hcap : s.decCap = false) (hnum : s.decNum = false) :
    ∃ t, runSteps (s.inLen / 6 + 2) s = .next t ∧ t.shows (decodeFn s.cfg s.input) ∧ t.tag = s.tag := by
  have hstep : step s = exec .decPre s :=
    (step_of_sequencerTurn s s (.free s h.pending)).trans (s.sequence_of_preflight hp)
  by_cases hlen : s.inLen % 6 = 0
  · have hinput : State.input { s with phase := .decode } = s.input :=
      s.memRead_congr { s with phase := .decode } rfl 0 s.inLen
    rw [runSteps_succ _ _ _ (hstep.trans (exec_decPre_of_whole s hlen)), ← hinput]
    exact runSteps_decodes_cells _ h hidx hcap hnum hlen
  · have hlength := s.input_length
    rw [runSteps_succ _ _ _ (hstep.trans (exec_decPre_of_partial s hlen)),
      decodeFn_of_partial _ _ (hlength ▸ hlen), hlength]
    exact ⟨_, runSteps_of_done (s.raise _ _) rfl h.pending _, s.raise_shows _ _, rfl⟩

/-- Settles O53: START leaves a fresh decoder, and its steps simulate the loop of `decode` cell by cell. The START as a
turn is the model's form (log 1). -/
theorem decodeCommandComputesDecode : Obligations.DecodeCommandComputesDecode := by
  intro s hbusy hcmd
  have hphase : s.started.phase = .preflight := s.cmd.firstPhase_eq_preflight_iff.mpr hcmd
  have hrun := runSteps_decodes s.started hphase ⟨rfl, rfl, rfl, rfl, rfl⟩ rfl rfl rfl
  rw [runSteps_starting _ s hbusy, ← s.started_input]
  exact hrun

end Sys2Proof.Machine
end

section
/-!
The instructions of the decoder one by one (42_decoder.md R136 to R144): how a group is read, and what is staged, raised
and left unchanged.
-/
namespace Sys2Proof.Machine

/-- The string `v` is staged at OLEN, and beside the two flags and IDX nothing else changes. -/
theorem State.stages_afterCell (s : State) (cap num : Bool) (v : List Sym) : Stages s (s.afterCell cap num v) v :=
  s.stages_emit v

theorem State.afterCell_frame (s : State) (cap num : Bool) (v : List Sym) :
    s.afterCell cap num v = { s with decCap := cap, decNum := num, idx := s.idx + 6,
                                     olen := (s.afterCell cap num v).olen,
                                     obuf := (s.afterCell cap num v).obuf } := rfl

section
variable (s : State) (h : s.decCap = false)
include h

theorem exec_decCap_of_not_pending (m : Bool) :
    exec (.decCap m) s = .next { s with decCap := true, idx := s.idx + 6 } := if_neg (ne_true_of_eq_false h)

theorem exec_decNum_of_not_pending (m : Bool) :
    exec (.decNum m) s = .next { s with decNum := true, idx := s.idx + 6 } := if_neg (ne_true_of_eq_false h)

theorem exec_decSpace_of_not_pending (m : Bool) :
    exec (.decSpace m) s = .next (s.afterCell s.decCap false [symSpace]) := if_neg (ne_true_of_eq_false h)

theorem exec_decDigit_of_not_pending (d : Fin 10) :
    exec (.decDigit d) s = .next (s.afterCell s.decCap s.decNum [digitSym d]) := if_neg (ne_true_of_eq_false h)

end

theorem exec_decLetter (s : State) (j : Fin 26) : exec (.decLetter j) s =
    .next (s.afterCell false s.decNum [if s.decCap then upperSym j else lowerSym j]) := rfl

/-- The two cases of a letter differ in the base of the code alone. -/
theorem letterSym_eq (cap : Bool) (j : Fin 26) :
    (if cap then upperSym j else lowerSym j) = BitVec.ofNat 21 ((if cap then 0x41 else 0x61) + j.val) := by
  cases cap <;> rfl

/-- Settles O26, by the length of the input modulo six. -/
theorem decPreChecksTheLength : Obligations.DecPreChecksTheLength :=
  ⟨fun _ => rfl, fun s => ⟨exec_decPre_of_whole s, exec_decPre_of_partial s⟩⟩

/-- Settles O27, by the value of DEC_CAP; the cell is written out. -/
theorem decCapSetsPendingCapital : Obligations.DecCapSetsPendingCapital :=
  ⟨fun _ _ => rfl, fun m s => ⟨fun h => exec_decCap_of_not_pending s h m, fun h => if_pos h⟩⟩

/-- Settles O28, by the value of DEC_CAP; the cell is written out. -/
theorem decNumEntersNumberMode : Obligations.DecNumEntersNumberMode :=
  ⟨fun _ _ => rfl, fun m s => ⟨fun h => exec_decNum_of_not_pending s h m, fun h => if_pos h⟩⟩

/-- Settles O29, by the value of DEC_CAP and the one `Emit` of the instruction; the cell is written out. -/
theorem decSpaceStagesASpace : Obligations.DecSpaceStagesASpace := by
  refine ⟨fun _ _ => rfl, fun m s => ⟨fun h => ?_, fun h => if_pos h⟩⟩
  exact ⟨_, exec_decSpace_of_not_pending s h m, s.afterCell_frame _ _ _, s.stages_afterCell _ _ _⟩

/-- Settles O30: the digit is read back from its cell, and DEC_CAP decides what is done. -/
theorem decDigitStagesTheDigit : Obligations.DecDigitStagesTheDigit := by
  refine ⟨fun cfg d hlut => decode_encode cfg (.decDigit d) hlut rfl, fun d s => ⟨fun h => ?_, fun h => if_pos h⟩⟩
  exact ⟨_, exec_decDigit_of_not_pending s h d, s.afterCell_frame _ _ _, s.stages_afterCell _ _ _⟩

/-- Settles O31: the letter is read back from its cell, and DEC_CAP decides the base of its code. -/
theorem decLetterStagesTheLetter : Obligations.DecLetterStagesTheLetter := by
  refine ⟨fun cfg j hlut => decode_encode cfg (.decLetter j) hlut rfl, fun j s => ?_⟩
  rw [← letterSym_eq]
  exact ⟨_, exec_decLetter s j, s.afterCell_frame _ _ _, s.stages_afterCell _ _ _⟩

/-- Settles O32: a group that is no cell string, and a cell without an entry in either mode, are read as the
instruction, which raises. -/
theorem decUnknownRaisesUnknownCell : Obligations.DecUnknownRaisesUnknownCell := by
  refine ⟨fun cfg m g hlen hb => ?_, fun cfg b hr => ?_, fun cfg b hspace hcap hnum hd => ?_, fun m g s => rfl⟩
  · rw [decode_dec_of_length_six cfg m g hlen, decodeCell_of_not_cellString cfg m g hb]
  · rw [decode_dec_of_length_six cfg false _ (cellStr_length b), decodeCell_of_revLet_eq_none cfg b hr]
  · rw [decode_dec_of_length_six cfg true _ (cellStr_length b),
      decodeCell_of_revDig_eq_none cfg b ⟨hspace, hcap, hnum⟩ hd]

/-- Settles O33, by the value of DEC_CAP. -/
theorem decEndCommitsOrRaisesDanglingCapital : Obligations.DecEndCommitsOrRaisesDanglingCapital :=
  ⟨fun _ _ => rfl, fun s => ⟨exec_decEnd_of_not_pending s, exec_decEnd_of_pending s⟩⟩

end Sys2Proof.Machine
end

section
/-!
Decoding what the encoder writes (42_decoder.md R146, 70_reset_and_hazards.md R205). As long as no letter stands directly
behind a digit, DEC_NUM is behind each character what ENC_NUM was, and each character comes back; a letter read in number
mode does not.
-/
namespace Sys2Proof.Machine

/-! ### The loop of `decode` on one cell -/

section
variable (cfg : Config) (cap num : Bool) (i : Nat) (out : List Sym) (b : Cell) (rest : List Sym)

/-- The loop of `decode` on the string of a cell, by the instruction that the cell is read as. -/
theorem decodeLoop_cellStr (instr : Instr) (h : decodeCell cfg num (cellStr b) = instr) :
    decodeLoop cfg cap num i out (cellStr b ++ rest) = (cellEffect cap num instr).inLoop cfg i out rest := by
  rw [decodeLoop_append cfg cap num i out _ rest (cellStr_length b), h]

theorem decodeLoop_capCell :
    decodeLoop cfg false num i out (cellStr capCell ++ rest) = decodeLoop cfg true num (i + 6) out rest := by
  rw [decodeLoop_cellStr cfg false num i out capCell rest (.decCap num) rfl]
  simp [cellEffect]

theorem decodeLoop_numCell :
    decodeLoop cfg false num i out (cellStr numCell ++ rest) = decodeLoop cfg false true (i + 6) out rest := by
  rw [decodeLoop_cellStr cfg false num i out numCell rest (.decNum num) rfl]
  simp [cellEffect]

theorem decodeLoop_spaceCell :
    decodeLoop cfg false num i out (cellStr spaceCell ++ rest) =
      decodeLoop cfg false false (i + 6) (out ++ [symSpace]) rest := by
  rw [decodeLoop_cellStr cfg false num i out spaceCell rest (.decSpace num) rfl]
  simp [cellEffect]

theorem decodeLoop_digit (h : Unnamed b) (d : Fin 10) (hd : revDig cfg b = some d) :
    decodeLoop cfg false true i out (cellStr b ++ rest) =
      decodeLoop cfg false true (i + 6) (out ++ [digitSym d]) rest := by
  rw [decodeLoop_cellStr cfg false true i out b rest (.decDigit d) (decodeCell_of_revDig cfg b d h hd)]
  simp [cellEffect]

theorem decodeLoop_digit_of_pending (h : Unnamed b) (d : Fin 10) (hd : revDig cfg b = some d) :
    decodeLoop cfg true true i out (cellStr b ++ rest) = .err .invalidSequence i := by
  rw [decodeLoop_cellStr cfg true true i out b rest (.decDigit d) (decodeCell_of_revDig cfg b d h hd)]
  simp [cellEffect]

theorem decodeLoop_letter (h : Unnamed b) (j : Fin 26) (hj : revLet cfg b = .letter j) :
    decodeLoop cfg cap false i out (cellStr b ++ rest) =
      decodeLoop cfg false false (i + 6) (out ++ [if cap then upperSym j else lowerSym j]) rest := by
  rw [decodeLoop_cellStr cfg cap false i out b rest (.decLetter j) (decodeCell_of_revLet cfg b j h hj)]
  rfl

/-- Number mode has no entry for the cell, whether a capital is pending or not. -/
theorem decodeLoop_noDigit (h : Unnamed b) (hd : revDig cfg b = none) :
    decodeLoop cfg cap true i out (cellStr b ++ rest) = .err .unknownCell i := by
  rw [decodeLoop_cellStr cfg cap true i out b rest _ (decodeCell_of_revDig_eq_none cfg b h hd)]
  rfl

end

/-- What the loop has decoded stays at the front of what it answers. -/
theorem decodeLoop_prefix (cfg : Config) (cap num : Bool) (i : Nat) (out s r : List Sym)
    (h : decodeLoop cfg cap num i out s = .ok r) : out <+: r := by
  fun_induction decodeLoop cfg cap num i out s
  case case3 ih | case5 ih => exact ih h
  case case7 ih | case10 ih | case11 ih => exact (List.prefix_append _ _).trans (ih h)
  case case14 =>
    cases h
    exact List.prefix_rfl
  all_goals cases h

/-! ### Letters and digits -/

/-- The symbol is no letter. -/
def NoLetter (c : Sym) : Prop := isUpper c = false ∧ isLower c = false

theorem noLetter_iff (c : Sym) : NoLetter c ↔ encClass c ≠ .upper ∧ encClass c ≠ .lower := by
  obtain ⟨hupper, hlower, -⟩ := encoderClassesByRange c
  rw [NoLetter, ne_eq, ne_eq, hupper, hlower, ← isUpper_iff, ← isLower_iff, Bool.not_eq_true, Bool.not_eq_true]

theorem encClass_digitSym (d : Fin 10) : encClass (digitSym d) = .digit := by
  obtain ⟨-, -, hdigit, -⟩ := encoderClassesByRange (digitSym d)
  rw [hdigit, digitSym_toNat]
  omega

theorem encClass_upperSym (j : Fin 26) : encClass (upperSym j) = .upper := by
  obtain ⟨hupper, -⟩ := encoderClassesByRange (upperSym j)
  rw [hupper, upperSym_toNat]
  omega

theorem encClass_lowerSym (j : Fin 26) : encClass (lowerSym j) = .lower := by
  obtain ⟨-, hlower, -⟩ := encoderClassesByRange (lowerSym j)
  rw [hlower, lowerSym_toNat]
  omega

/-- A letter whose cell is also that of a digit: the first ten (30_encoding.md R76). -/
theorem revDig_letterCell (cfg : Config) (hlut : cfg.lutValid = true) (j : Fin 26) (e : Fin 10) (hj : j.val < 10)
    (he : e.val = (j.val + 1) % 10) : revDig cfg (letterCell cfg j) = some e := by
  have hletter : digitLetter e = j := Fin.ext (show (e.val + 9) % 10 = j.val by omega)
  rw [← hletter]
  exact revDig_digitCell cfg hlut e

theorem revDig_letterCell_eq_none (cfg : Config) (hlut : cfg.lutValid = true) (j : Fin 26) (hj : 10 ≤ j.val) :
    revDig cfg (letterCell cfg j) = none := by
  refine (revDig_eq_none_iff cfg _).mpr fun d hd => ?_
  have hletter : (d.val + 9) % 10 = j.val := congrArg Fin.val (letterCell_injective cfg hlut hd)
  omega

/-! ### One character -/

section
variable (cfg : Config) (hlut : cfg.lutValid = true)
include hlut

/-- A character that is no letter, or a letter outside number mode, comes back, and DEC_NUM follows ENC_NUM. -/
theorem decodeLoop_encCells (num : Bool) (i : Nat) (out : List Sym) (c : Sym) (rest : List Sym)
    (hc : encClass c ≠ .other) (hnum : num = true → NoLetter c) :
    decodeLoop cfg false num i out (encCells cfg num c ++ rest) =
      decodeLoop cfg false (isDigit c) (i + (encCells cfg num c).length) (out ++ [c]) rest := by
  have letterMode (h : ¬ NoLetter c) : num = false := Bool.eq_false_iff.mpr fun hn => h (hnum hn)
  rw [noLetter_iff] at letterMode
  obtain ⟨hk, hlo, hhi⟩ | ⟨hk, hlo, hhi⟩ | ⟨hk, hlo, hhi⟩ | ⟨hk, h⟩ | ⟨hk, -⟩ := encClass_cases c
  · obtain rfl := letterMode (by simp [hk])
    rw [encCells, hk, isDigit_eq_of_encClass c _ hk]
    simp only [List.append_assoc]
    rw [decodeLoop_capCell, decodeLoop_letter cfg true _ _ _ _ (letterCell_unnamed cfg hlut _) _
      (revLet_letterCell cfg hlut _), if_pos rfl, upperSym_letterIndex c hlo hhi]
    rfl
  · obtain rfl := letterMode (by simp [hk])
    rw [encCells, hk, isDigit_eq_of_encClass c _ hk]
    simp only
    rw [decodeLoop_letter cfg false _ _ _ _ (letterCell_unnamed cfg hlut _) _
      (revLet_letterCell cfg hlut _), if_neg Bool.false_ne_true, lowerSym_letterIndex c hlo hhi]
    rfl
  · have hcell (i : Nat) := decodeLoop_digit cfg i out _ rest (digitCell_unnamed cfg hlut (digitValue c)) _
      (revDig_digitCell cfg hlut (digitValue c))
    rw [digitSym_digitValue c hlo hhi] at hcell
    rw [encCells, hk, isDigit_eq_of_encClass c _ hk]
    cases num with
    | true => exact hcell i
    | false =>
      simp only [Bool.false_eq_true, if_false, List.append_assoc]
      rw [decodeLoop_numCell]
      exact hcell (i + 6)
  · rw [encCells, hk, isDigit_eq_of_encClass c _ hk]
    simp only
    rw [decodeLoop_spaceCell, (eq_symSpace_iff c).mpr h]
    rfl
  · exact absurd hk hc

/-- A letter in number mode does not come back: behind a capital it is refused, and alone it is refused or read as a
digit. -/
theorem decodeLoop_encCells_ne (i : Nat) (out : List Sym) (c : Sym) (rest r : List Sym) (hc : ¬ NoLetter c) :
    decodeLoop cfg false true i out (encCells cfg true c ++ rest) ≠ .ok (out ++ c :: r) := by
  rw [noLetter_iff, ← not_or, not_not] at hc
  obtain hk | hk := hc <;> rw [encCells, hk] <;> simp only
  · have hu := letterCell_unnamed cfg hlut (letterIndex 0x41 c)
    rw [List.append_assoc, decodeLoop_capCell]
    cases hd : revDig cfg (letterCell cfg (letterIndex 0x41 c)) with
    | none => simp [decodeLoop_noDigit cfg true _ _ _ _ hu hd]
    | some d => simp [decodeLoop_digit_of_pending cfg _ _ _ _ hu d hd]
  · have hu := letterCell_unnamed cfg hlut (letterIndex 0x61 c)
    cases hd : revDig cfg (letterCell cfg (letterIndex 0x61 c)) with
    | none => simp [decodeLoop_noDigit cfg false _ _ _ _ hu hd]
    | some d =>
      rw [decodeLoop_digit cfg _ _ _ _ hu d hd]
      intro h
      have hfront := decodeLoop_prefix cfg _ _ _ _ _ _ h
      rw [List.prefix_append_right_inj, List.cons_prefix_cons] at hfront
      obtain ⟨rfl, -⟩ := hfront
      rw [encClass_digitSym] at hk
      cases hk

/-- A text comes back exactly if no letter stands directly behind a digit, also not behind one that precedes the text. -/
theorem decodeLoop_encText_iff (num : Bool) (i : Nat) (out s : List Sym) (hs : ∀ c ∈ s, encClass c ≠ .other) :
    decodeLoop cfg false num i out (encText cfg num s) = .ok (out ++ s) ↔
      (∀ c ∈ s.head?, num = true → NoLetter c) ∧ s.IsChain (fun c c' => isDigit c = true → NoLetter c') := by
  induction s generalizing num i out with
  | nil => simp [encText, decodeLoop]
  | cons c rest ih =>
    obtain ⟨hc, hrest⟩ := List.forall_mem_cons.mp hs
    rw [encText, List.isChain_cons, List.head?_cons]
    simp only [Option.mem_some_iff, forall_eq']
    by_cases hnum : num = true → NoLetter c
    · rw [decodeLoop_encCells cfg hlut num i out c _ hc hnum, List.append_cons out c rest, ih _ _ _ hrest]
      exact (and_iff_right hnum).symm
    · obtain ⟨rfl, hletter⟩ := Classical.not_imp.mp hnum
      exact iff_of_false (decodeLoop_encCells_ne cfg hlut i out c _ rest hletter) fun ⟨h, _⟩ => hnum h

end

/-- What `encode` writes has whole cells. -/
theorem decodeFn_encText (cfg : Config) (s : List Sym) (hs : ∀ c ∈ s, encClass c ≠ .other) :
    decodeFn cfg (encText cfg false s) = decodeLoop cfg false false 0 [] (encText cfg false s) := by
  refine decodeFn_of_whole cfg _ ?_
  rw [encText_length cfg false s hs, Nat.mul_mod_right]

theorem isChain_iff_getElem? {α : Type} (R : α → α → Prop) (s : List α) :
    s.IsChain R ↔ ∀ n c c', s[n]? = some c → s[n + 1]? = some c' → R c c' := by
  rw [List.isChain_iff_getElem]
  constructor
  · intro h n c c' hc hc'
    obtain ⟨_, rfl⟩ := List.getElem?_eq_some_iff.mp hc
    obtain ⟨hn, rfl⟩ := List.getElem?_eq_some_iff.mp hc'
    exact h n hn
  · exact fun h n hn => h n _ _ (List.getElem?_eq_getElem _) (List.getElem?_eq_getElem hn)

/-- The whole text: where it begins no digit precedes it. -/
theorem decodeFn_encText_iff (cfg : Config) (hlut : cfg.lutValid = true) (s : List Sym)
    (hs : ∀ c ∈ s, encClass c ≠ .other) :
    decodeFn cfg (encText cfg false s) = .ok s ↔
      ∀ n c c', s[n]? = some c → s[n + 1]? = some c' → isDigit c = true → NoLetter c' := by
  have hloop := decodeLoop_encText_iff cfg hlut false 0 [] s hs
  rw [List.nil_append, isChain_iff_getElem?] at hloop
  rw [decodeFn_encText cfg s hs, hloop]
  exact and_iff_right fun _ _ h => nomatch h

/-! ### A digit and a letter alone -/

section
variable (cfg : Config) (hlut : cfg.lutValid = true) (d : Fin 10) (j : Fin 26)
include hlut

/-- Behind the digit the second character is decoded in number mode. -/
theorem decodeFn_digit_then (c : Sym) (hc : encClass c ≠ .other) :
    decodeFn cfg (encText cfg false [digitSym d, c]) =
      decodeLoop cfg false true 12 [digitSym d] (encCells cfg true c ++ []) := by
  have hd : encClass (digitSym d) ≠ .other := by simp [encClass_digitSym]
  have hnum : isDigit (digitSym d) = true := (encClass_eq_digit_iff _).mp (encClass_digitSym d)
  have hlen : (encCells cfg false (digitSym d)).length = 12 := by
    rw [encCells_length cfg false _ hd, hnum, isUpper_eq_of_encClass _ _ (encClass_digitSym d)]
    rfl
  rw [decodeFn_encText cfg _ (by simp [hd, hc]), encText, decodeLoop_encCells cfg hlut false 0 [] _ _ hd nofun, hnum,
    hlen]
  rfl

theorem decodeFn_digit_upper :
    decodeFn cfg (encText cfg false [digitSym d, upperSym j]) =
      decodeLoop cfg true true 18 [digitSym d] (cellStr (letterCell cfg j) ++ []) := by
  rw [decodeFn_digit_then cfg hlut d _ (by simp [encClass_upperSym]), encCells, encClass_upperSym]
  simp only [letterIndex_upperSym, List.append_assoc]
  exact decodeLoop_capCell cfg true 12 _ _

theorem decodeFn_digit_lower :
    decodeFn cfg (encText cfg false [digitSym d, lowerSym j]) =
      decodeLoop cfg false true 12 [digitSym d] (cellStr (letterCell cfg j) ++ []) := by
  rw [decodeFn_digit_then cfg hlut d _ (by simp [encClass_lowerSym]), encCells, encClass_lowerSym]
  simp only [letterIndex_lowerSym]

end

/-- Settles O58: a text comes back exactly if number mode never meets a letter; a digit and a letter alone are decoded
in number mode by the reverse digit table, in which the first ten letters have an entry. -/
theorem decodeOfEncodedTextIsTheText : Obligations.DecodeOfEncodedTextIsTheText := by
  refine ⟨fun cfg s hlut hs => ?_, fun cfg d j hlut => ?_⟩
  · exact ⟨_, (encodeFn_eq_ok_iff cfg s _).mpr ⟨hs, rfl⟩, decodeFn_encText_iff cfg hlut s hs⟩
  · have hu := letterCell_unnamed cfg hlut j
    refine ⟨_, _, (encodeFn_eq_ok_iff cfg _ _).mpr ⟨by simp [encClass_digitSym, encClass_lowerSym], rfl⟩,
      (encodeFn_eq_ok_iff cfg _ _).mpr ⟨by simp [encClass_digitSym, encClass_upperSym], rfl⟩, ?_⟩
    rw [decodeFn_digit_lower cfg hlut d j, decodeFn_digit_upper cfg hlut d j]
    refine ⟨fun e hj he => ?_, fun hj => ?_⟩
    · have hd := revDig_letterCell cfg hlut j e hj he
      rw [decodeLoop_digit cfg 12 _ _ _ hu e hd, decodeLoop_digit_of_pending cfg 18 _ _ _ hu e hd]
      exact ⟨rfl, rfl⟩
    · have hd := revDig_letterCell_eq_none cfg hlut j hj
      exact ⟨decodeLoop_noDigit cfg false 12 _ _ _ hu hd, decodeLoop_noDigit cfg true 18 _ _ _ hu hd⟩

end Sys2Proof.Machine
end

section
/-!
The command TRANSLATE as a whole (43_dispatch.md R160, R162, R169, R170): the classifier reads the whole input,
`CLS.END` hands it over by the verdict, and the decoder or the encoder goes on as from its own START.
-/
namespace Sys2Proof.Machine

/-- The block that TRANSLATE leaves behind `CLS.END`, with the tag `g` (43_dispatch.md R162). -/
def State.translated (s : State) (g : Tag) : State := (s.started.classified s.inLen).translateBranch g

theorem State.translated_input (s : State) (g : Tag) : (s.translated g).input = s.input := by
  cases g <;> exact s.memRead_congr (s.translated _) rfl 0 s.inLen

theorem State.translated_cfg (s : State) (g : Tag) : (s.translated g).cfg = s.cfg := by
  cases g <;> rfl

section
variable (s : State) (hbusy : s.phase.busy = false) (hcmd : s.cmd = .translate)
include hbusy hcmd

/-- IN_LEN + 1 steps after its START the command has branched on `classify` of the input. -/
theorem runSteps_starting_translates (g : Tag) (hg : classifyFn s.cfg s.input = g) :
    runSteps (1 + (s.inLen + 1)) s.starting = .next (s.translated g) := by
  have hphase : s.cmd.firstPhase = .classify := s.cmd.firstPhase_eq_classify_iff.mpr (.inl hcmd)
  have hend := exec_clsEnd_of_cmdTranslate (s.started.classified s.inLen) hphase hcmd g
    (s.verdict_started_classified.trans hg)
  exact runSteps_starting_classifies s _ hbusy hphase hend

/-- The steps behind the branch are added to those of the classifier. -/
theorem runSteps_starting_translates_add (g : Tag) (hg : classifyFn s.cfg s.input = g) (n : Nat) :
    runSteps (1 + ((s.inLen + 1) + n)) s.starting = runSteps n (s.translated g) := by
  rw [← Nat.add_assoc]
  exact runSteps_add _ n _ _ (runSteps_starting_translates s hbusy hcmd g hg)

end

/-- The decoder finds the flags and the staged output as START has left them. -/
theorem runSteps_translated_braille (s : State) :
    ∃ t, runSteps (s.inLen / 6 + 2) (s.translated .braille) = .next t ∧ t.shows (decodeFn s.cfg s.input) ∧
      t.tag = some .braille := by
  have hrun := runSteps_decodes (s.translated .braille) rfl ⟨rfl, rfl, rfl, rfl, rfl⟩ rfl rfl rfl
  rwa [s.translated_input, s.translated_cfg] at hrun

/-- So does the encoder. -/
theorem runSteps_translated_english (s : State) :
    ∃ t, runSteps (s.inLen + 1) (s.translated .english) = .next t ∧ t.shows (encodeFn s.cfg s.input) ∧
      t.tag = some .english := by
  have hrun := runSteps_encodes (s.translated .english) ⟨rfl, rfl, rfl, rfl, rfl⟩ rfl rfl
  rwa [s.translated_input, s.translated_cfg] at hrun

/-- An unclassifiable input is refused at its end; the tag stands beside the error (log 22). -/
theorem State.translated_other_shows (s : State) :
    (s.translated .other).shows (.err .unclassifiableInput s.input.length) := by
  rw [s.input_length]
  exact State.raise_shows _ _ _

/-- Settles O55, by the tag: the decoder or the encoder runs behind the classifier, or `CLS.END` raises. The START as a
turn is the model's form (log 1), and that TAG stands beside the raise its reading (log 22). -/
theorem translateCommandComputesTranslate : Obligations.TranslateCommandComputesTranslate := by
  intro s hbusy hcmd
  have hsteps := runSteps_starting_translates_add s hbusy hcmd
  cases hg : classifyFn s.cfg s.input <;> rw [translateFn, hg]
  case braille =>
    obtain ⟨t, hrun, hshows, htag⟩ := runSteps_translated_braille s
    exact ⟨t, (hsteps .braille hg _).trans hrun, hshows, htag⟩
  case english =>
    obtain ⟨t, hrun, hshows, htag⟩ := runSteps_translated_english s
    exact ⟨t, (hsteps .english hg _).trans hrun, hshows, htag⟩
  case other =>
    exact ⟨_, runSteps_starting_translates s hbusy hcmd .other hg, s.translated_other_shows, rfl⟩

end Sys2Proof.Machine
end

section
/-!
Progress (43_dispatch.md R169): a state that meets the invariant always has a next state, and a busy one is in DONE
after a bounded number of turns of the sequencer.
-/
namespace Sys2Proof.Machine

/-! ### Every agent answers a next state -/

/-- CMD.ENCODE and CMD.DECODE, for which `CLS.END` has no rule, are excluded by the invariant (40_classifier.md
R105). -/
theorem State.Inv.exists_exec_clsEnd {s : State} (h : s.Inv) (hp : s.phase = .classify) :
    ∃ t, exec .clsEnd s = .next t := by
  obtain ⟨hcmd | hcmd, -, -⟩ := h.classify hp
  · exact ⟨_, exec_clsEnd_of_cmdTranslate s hp hcmd _ rfl⟩
  · exact ⟨_, exec_clsEnd_of_cmdClassify s hp hcmd⟩

theorem exists_exec_decodeEnc (s : State) (c : Sym) : ∃ t, exec (decodeEnc c) s = .next t := by
  obtain hr | ⟨v, -, hr⟩ := exec_decodeEnc s c
  · exact ⟨_, hr⟩
  · exact ⟨_, hr⟩

theorem exists_exec_decPre (s : State) : ∃ t, exec .decPre s = .next t := by
  by_cases hlen : s.inLen % 6 = 0
  · exact ⟨_, exec_decPre_of_whole s hlen⟩
  · exact ⟨_, exec_decPre_of_partial s hlen⟩

theorem exists_exec_decEnd (s : State) : ∃ t, exec .decEnd s = .next t := by
  cases hcap : s.decCap with
  | true => exact ⟨_, exec_decEnd_of_pending s hcap⟩
  | false => exact ⟨_, exec_decEnd_of_not_pending s hcap⟩

/-- In IDLE and DONE the sequencer has no step (60_exceptions.md R194; log 13). -/
theorem State.sequence_of_not_busy (s : State) (hb : s.phase.busy = false) : s.sequence = .next s := by
  obtain hp | hp := (Phase.busy_eq_false_iff s.phase).mp hb <;> rw [State.sequence, State.fetch, hp]

/-- The sequencer always finds an instruction with a rule: IDX is not past IN_LEN, and in DECODE the symbols left are
whole cells (20_memory.md R54, R56). -/
theorem State.Inv.exists_sequence {s : State} (h : s.Inv) : ∃ t, s.sequence = .next t := by
  cases hp : s.phase
  case idle | done => exact ⟨s, s.sequence_of_not_busy (by rw [hp]; rfl)⟩
  case preflight =>
    rw [s.sequence_of_preflight hp]
    exact exists_exec_decPre s
  all_goals have hle : s.idx ≤ s.inLen := h.busyIdxLe (by rw [hp]; rfl)
  case classify =>
    obtain hlt | hend := hle.lt_or_eq
    · exact ⟨_, s.sequence_of_classify hp hlt⟩
    · rw [s.sequence_of_classify_end hp hend]
      exact h.exists_exec_clsEnd hp
  case encode =>
    obtain hlt | hend := hle.lt_or_eq
    · rw [s.sequence_of_encode hp hlt]
      exact exists_exec_decodeEnc s _
    · exact ⟨_, s.sequence_of_encode_end hp hend⟩
  case decode =>
    obtain hlt | hend := hle.lt_or_eq
    · obtain ⟨-, hidx, hlen, -⟩ := h.decode hp
      rw [s.sequence_of_decode hp (by omega)]
      exact ⟨_, exec_decodeCell s _ _ _⟩
    · rw [s.sequence_of_decode_end hp hend]
      exact exists_exec_decEnd s

/-- START in a block that is not busy (43_dispatch.md R161). -/
theorem exec_ctrlStart_selects_phase (s : State) (h : s.phase.busy = false) :
    exec .ctrlStart s = .next { s.startInit with phase := s.cmd.firstPhase } :=
  (exec_ctrlStart_of_not_busy s h).trans (runCommand_of_not_busy s.startInit h)

theorem exists_exec_ctrlStart (s : State) : ∃ t, exec .ctrlStart s = .next t := by
  cases hb : s.phase.busy with
  | true => exact ⟨s, exec_ctrlStart_of_busy s hb⟩
  | false => exact ⟨_, exec_ctrlStart_selects_phase s hb⟩

theorem exists_exec_decodeCtrl (s : State) (v : BitVec 2) : ∃ t, exec (decodeCtrl v) s = .next t := by
  unfold decodeCtrl
  split_ifs
  · exact ⟨s.resetRegs, rfl⟩
  · exact exists_exec_ctrlStart s
  · exact ⟨s, rfl⟩

/-- Every host operation has an effect, in every state (20_memory.md R58). -/
theorem exists_hostOperation (op : HostOp) (s : State) : ∃ t, hostOperation op s = .next t := by
  cases op with
  | readReg n => exact ⟨_, rfl⟩
  | readWindow w i => exact ⟨_, rfl⟩
  | writeWindow w i v => exact ⟨_, rfl⟩
  | writeReg n v =>
    rw [hostOperation]
    split_ifs
    · exact exists_exec_decodeCtrl s _
    · exact ⟨_, rfl⟩

/-- Settles O50, by whose turn it is; only the sequencer's turn needs the invariant. In IDLE and DONE the answer of its
turn is the state itself (log 13). -/
theorem invariantStatesAlwaysStep : Obligations.InvariantStatesAlwaysStep := by
  intro s h
  match hpending : s.pending with
  | [] =>
    rw [step_of_sequencerTurn s s (.free s hpending)]
    exact h.exists_sequence
  | .run :: rest =>
    rw [step_of_sequencerTurn s _ (.run s rest hpending)]
    exact (h.keep_port rest s.readData s.freeReads).exists_sequence
  | .host op :: rest =>
    obtain ⟨-, -, hhost, -⟩ := turnsAreTakenInOrder s rest
    rw [hhost op hpending]
    exact exists_hostOperation op _
  | .poll :: rest =>
    obtain ⟨-, -, -, hread, hwait, -⟩ := turnsAreTakenInOrder s rest
    by_cases hdone : s.phase = .done
    · exact ⟨_, hread hpending hdone⟩
    · rw [hwait hpending hdone]
      exact h.exists_sequence
  | .resetInput :: rest =>
    obtain ⟨-, -, -, -, -, hreset⟩ := turnsAreTakenInOrder s rest
    exact ⟨_, hreset hpending⟩

/-! ### A busy block gets nearer to DONE -/

/-- A bound on the turns of the sequencer up to DONE (43_dispatch.md R169). CLASSIFY counts the longer of the two ways
behind it, that of the encoder. -/
def State.stepsLeft (s : State) : Nat :=
  match s.phase with
  | .idle | .done => 0
  | .classify => (s.inLen - s.idx) + (s.inLen + 2)
  | .encode => (s.inLen - s.idx) + 1
  | .preflight => s.inLen / 6 + 2
  | .decode => (s.inLen - s.idx) / 6 + 1

section
variable {s : State}

theorem State.stepsLeft_of_classify (hp : s.phase = .classify) :
    s.stepsLeft = (s.inLen - s.idx) + (s.inLen + 2) := by rw [State.stepsLeft, hp]

theorem State.stepsLeft_of_encode (hp : s.phase = .encode) : s.stepsLeft = (s.inLen - s.idx) + 1 := by
  rw [State.stepsLeft, hp]

theorem State.stepsLeft_of_preflight (hp : s.phase = .preflight) : s.stepsLeft = s.inLen / 6 + 2 := by
  rw [State.stepsLeft, hp]

theorem State.stepsLeft_of_decode (hp : s.phase = .decode) : s.stepsLeft = (s.inLen - s.idx) / 6 + 1 := by
  rw [State.stepsLeft, hp]

theorem State.stepsLeft_of_done (hp : s.phase = .done) : s.stepsLeft = 0 := by rw [State.stepsLeft, hp]

theorem State.stepsLeft_le (s : State) : s.stepsLeft ≤ 2 * s.inLen + 2 := by
  unfold State.stepsLeft
  split <;> omega

theorem State.stepsLeft_pos (hb : s.phase.busy = true) : 0 < s.stepsLeft := by
  cases hp : s.phase
  case idle | done =>
    rw [hp] at hb
    cases hb
  case classify => rw [State.stepsLeft_of_classify hp]; omega
  case encode => rw [State.stepsLeft_of_encode hp]; omega
  case preflight => rw [State.stepsLeft_of_preflight hp]; omega
  case decode => rw [State.stepsLeft_of_decode hp]; omega

/-- An empty input is tagged OTHER, so that `CLS.END` does not hand it over to the decoder (40_classifier.md R105). -/
theorem State.inLen_pos_of_handOver_preflight (h : s.Inv) (hflags : s.FlagsTrack) {t : State}
    (hp : s.phase = .classify) (hstep : s.sequence = .next t) (ht : t.phase = .preflight) : 0 < s.inLen := by
  by_contra hempty
  have hidx : s.idx = s.inLen := by
    have hle : s.idx ≤ s.inLen := h.busyIdxLe (by rw [hp]; rfl)
    omega
  obtain ⟨hseen, -⟩ := hflags.classify hp
  have hverdict : s.verdict = .other :=
    s.verdict_eq_other_iff.mpr (.inl (hseen.trans (decide_eq_false (by omega))))
  rw [s.sequence_of_classify_end hp hidx] at hstep
  obtain ⟨hcmd | hcmd, -, -⟩ := h.classify hp
  · rw [exec_clsEnd_of_cmdTranslate s hp hcmd .other hverdict] at hstep
    cases hstep
    cases ht
  · rw [exec_clsEnd_of_cmdClassify s hp hcmd] at hstep
    cases hstep
    cases ht

/-- One turn of the sequencer of a busy block, unless it hands an empty input over to the decoder. -/
theorem SequencerEffect.stepsLeft_lt {t : State} (he : SequencerEffect s t) (hb : s.phase.busy = true)
    (hinput : s.phase = .classify → t.phase = .preflight → 0 < s.inLen) : t.stepsLeft < s.stepsLeft := by
  cases he with
  | keep hidle => exact absurd hb (ne_true_of_eq_false hidle)
  | classifyFinish | translateOther | finish | raise =>
    rw [State.stepsLeft_of_done rfl]
    exact State.stepsLeft_pos hb
  | classifyRead hp hidx =>
    have ht : (s.afterCls (s.inAt s.idx)).stepsLeft = s.inLen - (s.idx + 1) + (s.inLen + 2) :=
      State.stepsLeft_of_classify hp
    rw [ht, State.stepsLeft_of_classify hp]
    omega
  | translateBraille hp =>
    have hpos : 0 < s.inLen := hinput hp rfl
    rw [State.stepsLeft_of_preflight rfl, State.stepsLeft_of_classify hp, State.handOver_inLen]
    dsimp only
    omega
  | translateEnglish hp =>
    rw [State.stepsLeft_of_encode rfl, State.stepsLeft_of_classify hp, State.handOver_inLen]
    dsimp only
    omega
  | encodeRead v hp hidx =>
    have ht : (s.afterEnc (s.inAt s.idx) v).stepsLeft = s.inLen - (s.idx + 1) + 1 := State.stepsLeft_of_encode hp
    rw [ht, State.stepsLeft_of_encode hp]
    omega
  | lengthPasses hp =>
    rw [State.stepsLeft_of_decode rfl, State.stepsLeft_of_preflight hp]
    dsimp only
    omega
  | decodeRead v hp hidx =>
    have ht : (s.afterDec (s.memRead s.idx 6) v).stepsLeft = (s.inLen - (s.idx + 6)) / 6 + 1 :=
      State.stepsLeft_of_decode hp
    rw [ht, State.stepsLeft_of_decode hp]
    omega

/-- The sequencer does not go back to IDLE (10_state.md R28). -/
theorem SequencerEffect.phase_ne_idle {t : State} (he : SequencerEffect s t) (hidle : s.phase ≠ .idle) :
    t.phase ≠ .idle := by
  cases he with
  | keep | classifyRead | encodeRead | decodeRead => exact hidle
  | classifyFinish | translateBraille | translateEnglish | translateOther | finish | lengthPasses | raise => nofun

end

/-- A command under way meets the two invariants, and no turn of the host is pending; DONE is where it ends. -/
structure State.UnderWay (s : State) : Prop where
  inv : s.Inv
  flags : s.FlagsTrack
  pending : s.pending = []
  notIdle : s.phase ≠ .idle

/-- While busy, a command under way takes a step that is nearer to DONE. -/
theorem State.UnderWay.exists_step {s : State} (h : s.UnderWay) (hb : s.phase.busy = true) :
    ∃ t, step s = .next t ∧ t.UnderWay ∧ t.stepsLeft < s.stepsLeft := by
  obtain ⟨t, hseq⟩ := h.inv.exists_sequence
  have he := s.effect_of_sequence t hseq
  obtain ⟨-, -, -, hpending, -⟩ := he.frame
  refine ⟨t, (step_of_sequencerTurn s s (.free s h.pending)).trans hseq, ?_, ?_⟩
  · exact ⟨h.inv.keep_sequencer s t he, h.flags.keep_sequencer s t he, hpending.trans h.pending,
      he.phase_ne_idle h.notIdle⟩
  · exact he.stepsLeft_lt hb fun hp ht => State.inLen_pos_of_handOver_preflight h.inv h.flags hp hseq ht

theorem State.UnderWay.reaches_done (n : Nat) (s : State) (h : s.UnderWay) (hn : s.stepsLeft ≤ n) :
    ∃ t, runSteps n s = .next t ∧ t.phase = .done := by
  induction n generalizing s with
  | zero =>
    have hdone : s.phase = .done := by
      by_contra hdone
      have hpos := State.stepsLeft_pos (s.phase.busy_of_ne h.notIdle hdone)
      omega
    exact ⟨s, runSteps_zero s, hdone⟩
  | succ n ih =>
    by_cases hdone : s.phase = .done
    · exact ⟨s, runSteps_of_done s hdone h.pending _, hdone⟩
    · obtain ⟨t, hstep, ht, hlt⟩ := h.exists_step (s.phase.busy_of_ne h.notIdle hdone)
      rw [runSteps_succ n s t hstep]
      exact ih t ht (by omega)

/-- Settles O57, by the bound on the steps left, which every step of a busy block lowers. -/
theorem busyBlockReachesDone : Obligations.BusyBlockReachesDone := by
  intro s hinv hflags hb hpending
  have hidle : s.phase ≠ .idle := by
    intro hp
    rw [hp] at hb
    cases hb
  exact State.UnderWay.reaches_done _ s ⟨hinv, hflags, hpending, hidle⟩ s.stepsLeft_le

end Sys2Proof.Machine
end

section
/-!
The two CTRL instructions with an effect (43_dispatch.md R161, R166), and what a turn of the sequencer executes (R168).
-/
namespace Sys2Proof.Machine

/-- Settles O35, by the phase: in IDLE and DONE the command selects its first phase, in the others START is ignored. -/
theorem startInitialisesAndSelectsThePhase : Obligations.StartInitialisesAndSelectsThePhase := by
  refine ⟨fun cfg => rfl, fun s => ⟨fun hp => ?_, fun hidle hdone => ?_⟩⟩
  · exact exec_ctrlStart_selects_phase s ((Phase.busy_eq_false_iff s.phase).mpr hp)
  · exact exec_ctrlStart_of_busy s (s.phase.busy_of_ne hidle hdone)

/-- Settles O36: RESET tests nothing, and its writes are the values of the reset state. -/
theorem resetRestoresEveryRegister : Obligations.ResetRestoresEveryRegister :=
  ⟨fun _ => ⟨rfl, rfl⟩, fun _ _ => rfl⟩

/-- Where the phase selects the format `f` of `n` symbols, the sequencer executes what the decoder reads in it. -/
theorem State.sequence_of_decoded (s : State) (f : Format) (n : Nat) (i : Instr) (hf : s.fetch = s.fetchAt f n)
    (hle : s.idx ≤ s.inLen) (hd : decode s.cfg f (s.window n) = .ok i) : s.sequence = exec i s := by
  have hfetch : s.fetch = .instr i := by rw [hf, State.fetchAt, if_pos hle, hd]
  rw [State.sequence, hfetch]

/-- The pending turns do not matter to what is read at IDX. -/
theorem State.window_pending (s : State) (p : List Turn) (n : Nat) :
    State.window { s with pending := p } n = s.window n :=
  s.memRead_congr { s with pending := p } rfl s.idx (min n (s.inLen - s.idx))

/-- Settles O44, by the phase, which selects the format. The turns are the model's form (log 1), and that the state
stays in IDLE and DONE its reading (log 13). -/
theorem stepRunsTheDecodedInstruction : Obligations.StepRunsTheDecodedInstruction := by
  intro s u hturn
  rw [step_of_sequencerTurn s u hturn, hturn.eq_with_pending]
  have decoded (f : Format) (n : Nat) (i : Instr) (hle : s.idx ≤ s.inLen)
      (hf : State.fetch { s with pending := u.pending } = State.fetchAt { s with pending := u.pending } f n)
      (hd : decode s.cfg f (s.window n) = .ok i) :=
    State.sequence_of_decoded { s with pending := u.pending } f n i hf hle
      ((congrArg (decode s.cfg f) (s.window_pending u.pending n)).trans hd)
  refine ⟨fun hp => ?_, fun hp => ?_, fun i hle => ⟨fun hp => ?_, fun hp => ?_, fun hp => ?_⟩⟩
  · exact State.sequence_of_not_busy _ ((Phase.busy_eq_false_iff s.phase).mpr hp)
  · exact State.sequence_of_preflight _ hp
  · exact decoded .cls 1 i hle (by simp only [State.fetch, hp])
  · exact decoded .enc 1 i hle (by simp only [State.fetch, hp])
  · exact decoded (.dec s.decNum) 6 i hle (by simp only [State.fetch, hp])

end Sys2Proof.Machine
end

section
/-!
What an instruction does with ERR (60_exceptions.md R182 to R184), said once over all instructions: each keeps it, clears
it, or raises. CLS.END alone writes TAG before it raises (log 22).
-/
namespace Sys2Proof.Machine

/-- The outcome records no error, or is `raise` in the state `s`, with an error of the block (60_exceptions.md R183). -/
inductive RecordsByRaise (s : State) : Host.Outcome State Fault Refusal → Prop where
  | keep (t : State) : t.err = s.err → RecordsByRaise s (.next t)
  /-- START and RESET. -/
  | clear (t : State) : t.err = none → RecordsByRaise s (.next t)
  | raise (k : ErrKind) (pos : Nat) : k ≠ .missingArguments → RecordsByRaise s (.next (s.raise k pos))
  | fault (f : Fault) : RecordsByRaise s (.fault f)

/-- Where no error was recorded before, a recorded one shows that the instruction raised it. -/
theorem RecordsByRaise.eq_raise {s t : State} {k : ErrKind} (h : RecordsByRaise s (.next t)) (hs : s.err = none)
    (ht : t.err = some k) : k ≠ .missingArguments ∧ t = s.raise k t.errPos := by
  cases h with
  | keep _ hkeep => simp [hkeep, hs] at ht
  | clear _ hclear => simp [hclear] at ht
  | raise k' pos hk' =>
    obtain rfl : k' = k := by simpa using ht
    exact ⟨hk', rfl⟩

/-- An instruction that tests one condition, and raises where it holds. -/
theorem RecordsByRaise.ite {s t : State} {k : ErrKind} (c : Prop) [Decidable c] (pos : Nat)
    (hk : k ≠ .missingArguments) (ht : t.err = s.err) :
    RecordsByRaise s (if c then .next (s.raise k pos) else .next t) := by
  split_ifs
  · exact .raise k pos hk
  · exact .keep t ht

/-! ### The commands -/

section
variable (s : State)

theorem execCmdTranslate_recordsByRaise : RecordsByRaise s (execCmdTranslate s) := by
  unfold execCmdTranslate
  cases s.phase with
  | idle | done | encode | preflight | decode => exact .keep _ rfl
  | classify =>
    cases s.tag with
    | none => exact .keep _ rfl
    | some g =>
      cases g with
      | braille | english => exact .keep _ rfl
      | other => exact .raise .unclassifiableInput _ (by decide)

theorem execCmdEncode_recordsByRaise : RecordsByRaise s (execCmdEncode s) := by
  unfold execCmdEncode
  cases s.phase with
  | classify => exact .fault _
  | idle | done | encode | preflight | decode => exact .keep _ rfl

theorem execCmdDecode_recordsByRaise : RecordsByRaise s (execCmdDecode s) := by
  unfold execCmdDecode
  cases s.phase with
  | classify => exact .fault _
  | idle | done | encode | preflight | decode => exact .keep _ rfl

theorem execCmdClassify_recordsByRaise : RecordsByRaise s (execCmdClassify s) := by
  unfold execCmdClassify
  cases s.phase <;> exact .keep _ rfl

theorem runCommand_recordsByRaise : RecordsByRaise s (runCommand s) := by
  unfold runCommand
  cases s.cmd with
  | translate => exact execCmdTranslate_recordsByRaise s
  | encode => exact execCmdEncode_recordsByRaise s
  | decode => exact execCmdDecode_recordsByRaise s
  | classify => exact execCmdClassify_recordsByRaise s

/-! ### All instructions -/

/-- While busy START is ignored, else it clears ERR (43_dispatch.md R161). -/
theorem exec_ctrlStart_recordsByRaise : RecordsByRaise s (exec .ctrlStart s) := by
  cases hb : s.phase.busy with
  | true =>
    rw [exec_ctrlStart_of_busy s hb]
    exact .keep s rfl
  | false =>
    rw [exec_ctrlStart_selects_phase s hb]
    exact .clear _ rfl

/-- The raise of CLS.END is that of the command it runs, in the state in which TAG is written (log 22). -/
theorem exec_clsEnd_recordsByRaise : RecordsByRaise { s with tag := some s.verdict } (exec .clsEnd s) :=
  runCommand_recordsByRaise { s with tag := some s.verdict }

/-- Every other instruction raises in the state it starts from, if at all (60_exceptions.md R183). -/
theorem exec_recordsByRaise (i : Instr) (hi : i ≠ .clsEnd) : RecordsByRaise s (exec i s) := by
  cases i with
  | cmdTranslate => exact execCmdTranslate_recordsByRaise s
  | cmdEncode => exact execCmdEncode_recordsByRaise s
  | cmdDecode => exact execCmdDecode_recordsByRaise s
  | cmdClassify => exact execCmdClassify_recordsByRaise s
  | ctrlStart => exact exec_ctrlStart_recordsByRaise s
  | ctrlReset => exact .clear s.resetRegs rfl
  | clsEnd => exact absurd rfl hi
  | ctrlNone | clsO | clsDot | clsEng | clsOther | encUpper | encLower | encSpace | encEnd | decLetter =>
    exact .keep _ rfl
  | encDigit =>
    rw [exec_encDigit_eq_staging]
    exact .keep _ rfl
  | encOther => exact .raise .unsupportedCharacter _ (by decide)
  | decUnknown => exact .raise .unknownCell _ (by decide)
  | decPre | decCap | decNum | decSpace | decDigit | decEnd => exact .ite _ _ (by decide) rfl

end

/-- Settles O38, by whether the instruction is `CLS.END`: in the state with its TAG (log 22), or as it was before, the
step is `raise`. -/
theorem raiseWritesOnlyTheErrorFields : Obligations.RaiseWritesOnlyTheErrorFields := by
  intro i s t k hexec hs ht
  by_cases hi : i = .clsEnd
  · subst hi
    have h := exec_clsEnd_recordsByRaise s
    rw [hexec] at h
    obtain ⟨hk, hraise⟩ := h.eq_raise hs ht
    rw [if_pos rfl]
    exact ⟨hk, hraise⟩
  · have h := exec_recordsByRaise s i hi
    rw [hexec] at h
    obtain ⟨hk, hraise⟩ := h.eq_raise hs ht
    rw [if_neg hi]
    exact ⟨hk, hraise⟩

end Sys2Proof.Machine
end

section
/-!
What a command leaves in the registers that a host reads, as functions of the command, the tables and the input alone
(70_reset_and_hazards.md R201, 43_dispatch.md R161, R170). That a command raising no error leaves ERR_POS at the 0 of
START is an invariant of its run (10_state.md R35), because `State.shows` speaks of ERR_POS only after an error.
-/
namespace Sys2Proof.Machine

/-! ### ERR_POS of a command under way -/

/-- No turn of the host is pending, and ERR_POS is 0 as long as no error is recorded (10_state.md R35, 43_dispatch.md
R161). -/
structure State.PosTracksErr (s : State) : Prop where
  pending : s.pending = []
  errPos : s.err = none → s.errPos = 0

theorem State.started_posTracksErr (s : State) : s.started.PosTracksErr := ⟨rfl, fun _ => rfl⟩

/-- Of the turns of the sequencer only a `raise` writes ERR_POS, and it records an error (60_exceptions.md R183). -/
theorem State.PosTracksErr.keep_sequencer {s t : State} (h : s.PosTracksErr) (he : SequencerEffect s t) :
    t.PosTracksErr := by
  obtain ⟨-, -, -, hpending, -⟩ := he.frame
  refine ⟨hpending.trans h.pending, ?_⟩
  cases he with
  | raise | translateOther => nofun
  | keep | classifyRead | classifyFinish | translateBraille | translateEnglish | encodeRead | finish | lengthPasses
  | decodeRead => exact h.errPos

theorem State.PosTracksErr.keep_runSteps (n : Nat) {s t : State} (h : s.PosTracksErr)
    (hrun : runSteps n s = .next t) : t.PosTracksErr := by
  induction n generalizing s with
  | zero =>
    cases hrun
    exact h
  | succ n ih =>
    obtain ⟨u, hstep, hrest⟩ := runSteps_succ_inv n s t hrun
    rw [step_of_sequencerTurn s s (.free s h.pending)] at hstep
    exact ih (h.keep_sequencer (s.effect_of_sequence u hstep)) hrest

/-! ### The answer of a command -/

/-- The result of a command; CLASSIFY has no output and no error (43_dispatch.md R163). -/
def Cmd.resultFn (cfg : Config) (input : List Sym) : Cmd → Result
  | .translate => translateFn cfg input
  | .encode => encodeFn cfg input
  | .decode => decodeFn cfg input
  | .classify => .ok []

/-- The TAG that a command leaves: NONE where it does not classify (10_state.md R33). -/
def Cmd.tagFn (cfg : Config) (input : List Sym) : Cmd → Option Tag
  | .translate | .classify => some (classifyFn cfg input)
  | .encode | .decode => none

theorem State.shows.phase_eq_done {t : State} {r : Result} (h : t.shows r) : t.phase = .done := by
  cases r with
  | ok => exact h.left
  | err => exact h.left

theorem State.output_of_outLen_zero (t : State) (h : t.outLen = 0) : t.output = [] := by
  rw [State.output, h]
  rfl

/-- What is classified as Braille is not empty (40_classifier.md R100). -/
theorem State.inLen_pos_of_braille (s : State) (h : classifyFn s.cfg s.input = .braille) : 0 < s.inLen := by
  rw [← s.input_length]
  by_contra hempty
  rw [classifyFn, if_pos (by omega)] at h
  cases h

/-- A started command gives its answer within the bound of 43_dispatch.md R169. -/
theorem runSteps_starting_answers (s : State) (hbusy : s.phase.busy = false) :
    ∃ k t, k ≤ 2 * s.inLen + 2 ∧ runSteps (1 + k) s.starting = .next t ∧
      t.shows (s.cmd.resultFn s.cfg s.input) ∧ t.tag = s.cmd.tagFn s.cfg s.input := by
  cases hcmd : s.cmd with
  | encode =>
    obtain ⟨t, hrun, hshows, htag⟩ := encodeCommandComputesEncode s hbusy hcmd
    exact ⟨_, t, by omega, hrun, hshows, htag⟩
  | decode =>
    obtain ⟨t, hrun, hshows, htag⟩ := decodeCommandComputesDecode s hbusy hcmd
    exact ⟨_, t, by omega, hrun, hshows, htag⟩
  | classify =>
    obtain ⟨t, hrun, hdone, htag, herr, hlen⟩ := classifyCommandComputesClassify s hbusy hcmd
    exact ⟨_, t, by omega, hrun, ⟨hdone, herr, hlen, t.output_of_outLen_zero hlen⟩, htag⟩
  | translate =>
    obtain ⟨t, hrun, hshows, htag⟩ := translateCommandComputesTranslate s hbusy hcmd
    cases hg : classifyFn s.cfg s.input <;> simp only [hg] at hrun
    case braille =>
      have hpos := s.inLen_pos_of_braille hg
      exact ⟨(s.inLen + 1) + (s.inLen / 6 + 2), t, by omega, hrun, hshows, htag⟩
    case english => exact ⟨(s.inLen + 1) + (s.inLen + 1), t, by omega, hrun, hshows, htag⟩
    case other => exact ⟨s.inLen + 1, t, by omega, hrun, hshows, htag⟩

/-- It keeps the answer up to the bound, and ERR_POS is 0 unless it raised an error. -/
theorem runSteps_starting_keeps_answer (s : State) (hbusy : s.phase.busy = false) :
    ∃ t, runSteps (2 * s.inLen + 3) s.starting = .next t ∧ t.PosTracksErr ∧
      t.shows (s.cmd.resultFn s.cfg s.input) ∧ t.tag = s.cmd.tagFn s.cfg s.input := by
  obtain ⟨k, t, hk, hrun, hshows, htag⟩ := runSteps_starting_answers s hbusy
  have hpos : t.PosTracksErr :=
    s.started_posTracksErr.keep_runSteps k ((runSteps_starting k s hbusy).symm.trans hrun)
  have hsteps : 2 * s.inLen + 3 = (1 + k) + (2 * s.inLen + 2 - k) := by omega
  refine ⟨t, ?_, hpos, hshows, htag⟩
  rw [hsteps, runSteps_add _ _ _ _ hrun]
  exact runSteps_of_done t hshows.phase_eq_done hpos.pending _

/-! ### Two blocks with the same answer -/

section
variable {t t' : State}

/-- Two blocks that show a host the same result agree on everything `State.shows` speaks of; that ERR_POS is 0 after a
success is the invariant above. -/
theorem State.shows.agree {r : Result} (h : t.shows r) (h' : t'.shows r) (hpos : t.PosTracksErr)
    (hpos' : t'.PosTracksErr) :
    t.err = t'.err ∧ t.errPos = t'.errPos ∧ t.outLen = t'.outLen ∧ t.output = t'.output := by
  cases r with
  | ok out =>
    obtain ⟨-, herr, hlen, hout⟩ := h
    obtain ⟨-, herr', hlen', hout'⟩ := h'
    exact ⟨herr.trans herr'.symm, (hpos.errPos herr).trans (hpos'.errPos herr').symm, hlen.trans hlen'.symm,
      hout.trans hout'.symm⟩
  | err k pos =>
    obtain ⟨-, herr, hat, hlen⟩ := h
    obtain ⟨-, herr', hat', hlen'⟩ := h'
    exact ⟨herr.trans herr'.symm, hat.trans hat'.symm, hlen.trans hlen'.symm,
      (t.output_of_outLen_zero hlen).trans (t'.output_of_outLen_zero hlen').symm⟩

/-- STATUS is put together from PHASE, TAG and ERR (10_state.md R32). -/
theorem State.statusView_congr (hphase : t.phase = t'.phase) (htag : t.tag = t'.tag) (herr : t.err = t'.err) :
    t.statusView = t'.statusView := by
  rw [State.statusView, State.statusView, hphase, htag, herr]

end

/-- Settles O56: each block ends with the answer of its command for its tables and its input, which are the same. The
START as a turn is the model's form (log 1). -/
theorem resultIsIndependentOfHistory : Obligations.ResultIsIndependentOfHistory := by
  intro s s' hbusy hbusy' hcmd hcfg hlen hinput
  obtain ⟨t, hrun, hpos, hshows, htag⟩ := runSteps_starting_keeps_answer s hbusy
  obtain ⟨t', hrun', hpos', hshows', htag'⟩ := runSteps_starting_keeps_answer s' hbusy'
  rw [← hcmd, ← hcfg, ← hinput] at hshows' htag'
  rw [← hlen] at hrun'
  have hdone := hshows.phase_eq_done
  have hdone' := hshows'.phase_eq_done
  obtain ⟨herr, herrPos, houtLen, hout⟩ := hshows.agree hshows' hpos hpos'
  have hstatus := State.statusView_congr (hdone.trans hdone'.symm) (htag.trans htag'.symm) herr
  exact ⟨t, t', hrun, hrun', hdone, hdone', hstatus, herrPos, houtLen, hout⟩

end Sys2Proof.Machine
end
